-- ==== Sys2Proof/Word.lean ====
section
/-! DEFINITION. The word types of the block (spec 00_scope R11): bytes, the 16-bit count of DELAY,
and single bits. Every value is unsigned; bit 0 is the least significant. -/

namespace Sys2Proof

/-- A byte `b`, with bits `b[7]` (most significant) down to `b[0]` (R11). -/
abbrev Byte := BitVec 8

/-- The 16-bit unsigned count of DELAY (R66). -/
abbrev Count := BitVec 16

/-- One bit: `false` is 0, `true` is 1. -/
abbrev Bit := Bool

end Sys2Proof
end

