-- ==== Sys2Proof/Machine/Flags.lean ====
section
/-! DEFINITION. The ErrorMask (10_state R29), the block's only status information (R34), and the two
ways a command computes it. -/

namespace Sys2Proof.Machine

/-- An ErrorMask has 8 bits (R29, decision D16). -/
abbrev ErrorMask := BitVec 8

/-- Bit 0, set by WRITE (R29, 60_exceptions R161). -/
def ackError : ErrorMask := 0x01

/-- Bit 1, never set by the block (R162): the host's timeout. -/
def timeoutError : ErrorMask := 0x02

/-- Bit 2, set by CRCCHK (R29, R161). -/
def checksumError : ErrorMask := 0x04

/-- Bit 3, reserved and never set (R163). -/
def unitError : ErrorMask := 0x08

/-- The mask of a WRITE from its acknowledge sample (41_bus_engine R104, R105). -/
def writeMask (v : Bit) : ErrorMask := if v then ackError else 0x00

/-- The mask of a CRCCHK from the computed CRC `r` and the checksum `c` (42_crc8 R141). -/
def crcMask (r c : Byte) : ErrorMask := if r ≠ c then checksumError else 0x00

/-- The host's accumulation of masks over a transaction, bitwise OR (00_scope R14, R29). -/
def accumulateMasks (ms : List ErrorMask) : ErrorMask := ms.foldl (· ||| ·) 0

end Sys2Proof.Machine
end

