-- ==== Sys2Proof/Syntax.lean ====
section
/-! DEFINITION. The commands of the block, one constructor per row of spec/opcode_table.json
(30_encoding R69), over the two lines and the two acknowledge values. -/

namespace Sys2Proof

/-- The two open-drain lines (00_scope glossary "Line"; R64: SDA is 0, SCL is 1). -/
inductive Line where
  | sda
  | scl
  deriving DecidableEq, Repr

/-- Acknowledge (10_state R30): `ACK = 0`, `NO_ACK = 1`. -/
inductive Ack where
  | ack
  | noAck
  deriving DecidableEq, Repr

/-- The ten commands (R69). -/
inductive Instr where
  /-- INIT, opcode 0x10 (R101). -/
  | init
  /-- START, opcode 0x20 (R102). -/
  | start
  /-- STOP, opcode 0x30 (R103). -/
  | stop
  /-- WRITE d, opcode 0x40 (R104). -/
  | write (d : Byte)
  /-- READ a, opcodes 0x50 and 0x51 (R106). -/
  | read (a : Ack)
  /-- CRCCHK data, c, opcode 0x60 (42_crc8 R141). -/
  | crcchk (data : List Byte) (c : Byte)
  /-- LINE_LOW p, opcodes 0x70 and 0x71 (40_line_driver R86). -/
  | lineLow (p : Line)
  /-- LINE_RELEASE p, opcodes 0x72 and 0x73 (R87). -/
  | lineRelease (p : Line)
  /-- LINE_READ p, opcodes 0x74 and 0x75 (R88). -/
  | lineRead (p : Line)
  /-- DELAY n, opcode 0x80 (R89). -/
  | delay (n : Count)
  deriving DecidableEq, Repr

end Sys2Proof
end

