-- ==== Sys2Proof/Machine/Event.lean ====
section
/-! DEFINITION. The vocabulary of the block's state: driver states (10_state R21), line events (R26),
responses (R27) and fault reasons (R24). -/

namespace Sys2Proof.Machine

/-- The driver state of one line (R21). -/
inductive Drive where
  /-- Not yet driven or released since power-on (decision D15). -/
  | unconfigured
  /-- The block pulls the line to logic 0. -/
  | drivenLow
  /-- The block does not pull; the bus environment decides the level. -/
  | released
  deriving DecidableEq, Repr

/-- One entry of the trace (R26). -/
inductive Event where
  /-- From `DriveLow(p)` (R80). -/
  | drive (p : Line)
  /-- From `Release(p)` (R81). -/
  | release (p : Line)
  /-- From `Sample(p)`, with the level read (R83). -/
  | sample (p : Line) (v : Bit)
  /-- From `Delay(n)`, a minimum in microseconds (R84). -/
  | delay (n : Nat)
  deriving DecidableEq, Repr

/-- The response of one completed command (R27). -/
inductive Response where
  /-- INIT, START, STOP, LINE_LOW, LINE_RELEASE, DELAY. -/
  | none
  /-- WRITE, CRCCHK: an ErrorMask (R29). -/
  | mask (m : BitVec 8)
  /-- READ: the assembled byte. -/
  | byte (b : Byte)
  /-- LINE_READ: the level read. -/
  | level (v : Bit)
  deriving DecidableEq, Repr

/-- The two model faults (R24, 60_exceptions R164). -/
inductive FaultReason where
  /-- A bus command before both lines are configured (41_bus_engine R100). -/
  | notInitialised
  /-- LINE_READ of a line that was never configured (40_line_driver R88). -/
  | readUnconfigured
  deriving DecidableEq, Repr

end Sys2Proof.Machine
end

