-- ==== Sys2Proof/Config.lean ====
section
/-! DEFINITION. What an implementation fixes and what the spec leaves free: the named parameters of
00_scope R10 with their values there, and the oracle of the bus environment (40_line_driver R83). -/

namespace Sys2Proof.Config

/-- The named parameters of R10. Hold times are minima in microseconds. -/
structure Params where
  tHdSta : Nat
  tStaScl : Nat
  tSuSto : Nat
  tStoEnd : Nat
  tWrSuDat : Nat
  tWrHigh : Nat
  tWrHdDat : Nat
  tWrAckSu : Nat
  tWrSettle : Nat
  tRdSu : Nat
  tRdHigh : Nat
  tRdHd : Nat
  tRdAckSu : Nat
  tRdAckHigh : Nat
  tRdSettle : Nat
  startPrerelease : Bool
  crcPoly : Byte
  crcInit : Byte
  deriving DecidableEq, Repr

/-- The values of the R10 table, in its order. -/
def specParams : Params :=
  { tHdSta := 10, tStaScl := 10, tSuSto := 10, tStoEnd := 10,
    tWrSuDat := 1, tWrHigh := 5, tWrHdDat := 1, tWrAckSu := 1, tWrSettle := 20,
    tRdSu := 1, tRdHigh := 3, tRdHd := 1, tRdAckSu := 1, tRdAckHigh := 5, tRdSettle := 20,
    startPrerelease := true, crcPoly := 0x31, crcInit := 0x00 }

/-- FREE VALUE (log 3): `env(h, p)`, the bus environment's answer to a sample of line `p` after the
trace `h`, "a free parameter of the step under no law" (R83). It has no body: nothing can be proved
of it. -/
opaque env : List Machine.Event → Line → Bit

end Sys2Proof.Config
end

