-- ==== Sys2Proof/Machine/Operands.lean ====
section
/-! DEFINITION. Every operand form of 30_encoding sections 1 and 2 (fields `a`, `p`, `d`, `n`, `data`,
`c`), the byte order of DELAY's count, and the bit order of the wire (20_memory R42). -/

namespace Sys2Proof.Machine

/-- Byte `i` of a command (R62); commands are read only after their length is checked (R71). -/
def byteAt (bytes : List Byte) (i : Nat) : Byte := bytes.getD i 0

/-- Bit `i` of a byte (00_scope R11). -/
def bitOf (b : Byte) (i : Nat) : Bit := b.getLsbD i

/-- The line named by field `p` (R64): 0 is SDA, 1 is SCL. -/
def lineOfBit (b : Bit) : Line := if b then .scl else .sda

/-- Field `p` of a line (R64). -/
def bitOfLine : Line → Bit
  | .sda => false
  | .scl => true

/-- The acknowledge named by field `a` (R63): 0 is ACK, 1 is NO_ACK. -/
def ackOfBit (b : Bit) : Ack := if b then .noAck else .ack

/-- Field `a` of an acknowledge, which is the SDA level the master produces (10_state R30). -/
def bitOfAck : Ack → Bit
  | .ack => false
  | .noAck => true

/-- A bit as a byte, zero-extended (R11). -/
def byteOfBit (b : Bit) : Byte := if b then 1 else 0

/-- `nh * 256 + nl`, high byte first (R66). -/
def countOfBytes (nh nl : Byte) : Count := BitVec.ofNat 16 (nh.toNat * 256 + nl.toNat)

/-- Count bits 15:8, the first operand byte of DELAY (R62, R66). -/
def countHigh (n : Count) : Byte := n.extractLsb' 8 8

/-- Count bits 7:0, the second operand byte of DELAY (R62, R66). -/
def countLow (n : Count) : Byte := n.extractLsb' 0 8

/-- The order of the data bits on the wire: bit 7 first, bit 0 eighth (20_memory R42). -/
def wireOrder : List Nat := [7, 6, 5, 4, 3, 2, 1, 0]

/-- `b | (v << i)` (R106), on bytes. -/
def orBit (b : Byte) (v : Bit) (i : Nat) : Byte := b ||| (byteOfBit v <<< i)

end Sys2Proof.Machine
end

