-- ==== Sys2Proof/WellFormed.lean ====
section
/-! DEFINITION. The commands the encoding admits. Every operand but one is bounded by its type; the
data of CRCCHK has 0 to 255 bytes (30_encoding R67, decision D18). -/

namespace Sys2Proof

/-- The longest data sequence one CRCCHK can carry (R67). -/
def maxCrcData : Nat := 255

/-- A command the encoding can spell: CRCCHK's length fits its length byte (R67). -/
def wellFormed : Instr → Bool
  | .init => true
  | .start => true
  | .stop => true
  | .write _ => true
  | .read _ => true
  | .crcchk data _ => data.length ≤ maxCrcData
  | .lineLow _ => true
  | .lineRelease _ => true
  | .lineRead _ => true
  | .delay _ => true

end Sys2Proof
end

