-- ==== Sys2Proof/Decode.lean ====
section
/-! DEFINITION. The decoder and the encoder of the command stream (30_encoding). The decoder is total:
on any byte sequence it yields a command and the bytes after it, a refusal by name (R70, R71), or
`nothing` when there is no byte left. -/

namespace Sys2Proof

open Sys2Proof.Machine

/-- The four formats of R62. -/
inductive Format where
  /-- One byte: the opcode. -/
  | f0
  /-- Two bytes: the opcode and one data byte. -/
  | fb
  /-- Three bytes: the opcode and a 16-bit count, high byte first. -/
  | fw
  /-- `n + 3` bytes: the opcode, the length `n`, the `n` data bytes, the checksum. -/
  | fv
  deriving DecidableEq, Repr

/-- The rows of the opcode map, by mnemonic (R69). -/
inductive Op where
  | init | start | stop | write | read | crcchk | lineLow | lineRelease | lineRead | delay
  deriving DecidableEq, Repr

/-- One row of R69: an opcode byte `b` selects it when `b & mask = pattern`. -/
structure OpcodeRow where
  op : Op
  pattern : Byte
  mask : Byte
  format : Format
  deriving DecidableEq, Repr

/-- The opcode map as match and mask pairs (R69). -/
def opcodeMap : List OpcodeRow :=
  [ ⟨.init, 0x10, 0xFF, .f0⟩,
    ⟨.start, 0x20, 0xFF, .f0⟩,
    ⟨.stop, 0x30, 0xFF, .f0⟩,
    ⟨.write, 0x40, 0xFF, .fb⟩,
    ⟨.read, 0x50, 0xFE, .f0⟩,
    ⟨.crcchk, 0x60, 0xFF, .fv⟩,
    ⟨.lineLow, 0x70, 0xFE, .f0⟩,
    ⟨.lineRelease, 0x72, 0xFE, .f0⟩,
    ⟨.lineRead, 0x74, 0xFE, .f0⟩,
    ⟨.delay, 0x80, 0xFF, .fw⟩ ]

/-- Does an opcode byte select this row (R69)? -/
def OpcodeRow.selects (row : OpcodeRow) (op : Byte) : Bool := op &&& row.mask == row.pattern

/-- The row an opcode byte selects, none when the byte is illegal (R70). -/
def lookupRow (op : Byte) : Option OpcodeRow := opcodeMap.find? (fun row => row.selects op)

/-- Why the decoder refuses (10_state R25). -/
inductive RefusalReason where
  /-- The opcode byte matches no row (R70). -/
  | illegalOpcode
  /-- The stream ends before the last byte of a command with a legal opcode (R71). -/
  | truncated
  deriving DecidableEq, Repr

/-- What the decoder finds at the head of a byte sequence. -/
inductive Decoded where
  /-- No byte is left. -/
  | nothing
  /-- A command and the bytes after it (R68). -/
  | command (i : Instr) (rest : List Byte)
  /-- The bytes spell no command (R70, R71). -/
  | refuse (r : RefusalReason)
  deriving DecidableEq, Repr

/-- The length in bytes of a command with this format: from its first byte alone, or for FV from its
first two (R68); none when the length byte itself is missing. -/
def commandLength (f : Format) (bytes : List Byte) : Option Nat :=
  match f with
  | .f0 => some 1
  | .fb => some 2
  | .fw => some 3
  | .fv => (bytes[1]?).map (fun n => n.toNat + 3)

/-- The command of a row, its fields read from the bytes of the command (R63 to R67). -/
def instrOf (o : Op) (bytes : List Byte) : Instr :=
  match o with
  | .init => .init
  | .start => .start
  | .stop => .stop
  | .write => .write (byteAt bytes 1)
  | .read => .read (ackOfBit (bitOf (byteAt bytes 0) 0))
  | .crcchk => .crcchk ((bytes.drop 2).take (byteAt bytes 1).toNat)
      (byteAt bytes ((byteAt bytes 1).toNat + 2))
  | .lineLow => .lineLow (lineOfBit (bitOf (byteAt bytes 0) 0))
  | .lineRelease => .lineRelease (lineOfBit (bitOf (byteAt bytes 0) 0))
  | .lineRead => .lineRead (lineOfBit (bitOf (byteAt bytes 0) 0))
  | .delay => .delay (countOfBytes (byteAt bytes 1) (byteAt bytes 2))

/-- Decode one command of a selected row: refused as truncated when a byte is missing (R71). -/
def decodeRow (row : OpcodeRow) (bytes : List Byte) : Decoded :=
  match commandLength row.format bytes with
  | none => .refuse .truncated
  | some n => if n ≤ bytes.length then .command (instrOf row.op bytes) (bytes.drop n)
              else .refuse .truncated

/-- The decoder: the opcode byte first, then the length, then the fields (R60, R166). -/
def decode : List Byte → Decoded
  | [] => .nothing
  | op :: operands =>
    match lookupRow op with
    | none => .refuse .illegalOpcode
    | some row => decodeRow row (op :: operands)

/-- Decode a whole program from position `pos`, at most `fuel` commands: the commands, then the
refusal that stopped it with its byte position, if any (R73). -/
def decodeProgramFrom : Nat → Nat → List Byte → List Instr × Option (RefusalReason × Nat)
  | 0, _, _ => ([], none)
  | fuel + 1, pos, bytes =>
    match decode bytes with
    | .nothing => ([], none)
    | .refuse r => ([], some (r, pos))
    | .command i rest =>
      let tail := decodeProgramFrom fuel (pos + (bytes.length - rest.length)) rest
      (i :: tail.1, tail.2)

/-- Decode a whole program (R73). Every command has at least one byte, so the number of bytes is
fuel enough. -/
def decodeProgram (bytes : List Byte) : List Instr × Option (RefusalReason × Nat) :=
  decodeProgramFrom bytes.length 0 bytes

/-- The bytes of a command (R62, R69). -/
def encode : Instr → List Byte
  | .init => [0x10]
  | .start => [0x20]
  | .stop => [0x30]
  | .write d => [0x40, d]
  | .read a => [0x50 ||| byteOfBit (bitOfAck a)]
  | .crcchk data c => 0x60 :: BitVec.ofNat 8 data.length :: (data ++ [c])
  | .lineLow p => [0x70 ||| byteOfBit (bitOfLine p)]
  | .lineRelease p => [0x72 ||| byteOfBit (bitOfLine p)]
  | .lineRead p => [0x74 ||| byteOfBit (bitOfLine p)]
  | .delay n => [0x80, countHigh n, countLow n]

/-- The bytes of a program: its commands with no padding and no separator (R60). -/
def encodeProgram (is : List Instr) : List Byte := is.flatMap encode

/-- The length of a command in bytes (R68). -/
def instrLength : Instr → Nat
  | .init => 1
  | .start => 1
  | .stop => 1
  | .write _ => 2
  | .read _ => 1
  | .crcchk data _ => data.length + 3
  | .lineLow _ => 1
  | .lineRelease _ => 1
  | .lineRead _ => 1
  | .delay _ => 3

/-- The length of the longest command, a CRCCHK with 255 data bytes (R62). -/
def longestCommand : Nat := maxCrcData + 3

/-- The bytes of an instruction given as a number of `nbits` bits, the first byte in its lowest bits,
followed by zero bytes up to the longest command. -/
def tableBytes (nbits w : Nat) : List Byte :=
  (List.range (max longestCommand (nbits / 8))).map
    (fun j => BitVec.ofNat 8 ((w % 2 ^ nbits) >>> (8 * j)))

/-- The command the decoder reads from an instruction whose bits are `w`, numbered as
spec/opcode_table.json numbers them. -/
def decodeTableWord (nbits w : Nat) : Option Instr :=
  match decode (tableBytes nbits w) with
  | .command i _ => some i
  | .nothing => none
  | .refuse _ => none

end Sys2Proof
end

