-- ==== Sys2Proof/Machine/State.lean ====
section
/-! DEFINITION. The state of the block (10_state R20), the reasons a step can stop, and the state at
power-on (R35). -/

namespace Sys2Proof.Machine

/-- The fault mark: the reason "together with the command position `k`" (60_exceptions R164). -/
structure FaultMark where
  reason : FaultReason
  pos : Nat
  deriving DecidableEq, Repr

/-- The refusal mark: the reason and the byte position (30_encoding R70, R71). -/
structure RefusalMark where
  reason : RefusalReason
  pos : Nat
  deriving DecidableEq, Repr

/-- The state of the block (R20) and the model's own fields `stream`, `answers` and `params`, which
the spec calls parameters of the step (logs 1, 2 and 3). -/
structure State where
  /-- `drv[SDA]` (R21). -/
  drvSda : Drive
  /-- `drv[SCL]` (R21). -/
  drvScl : Drive
  /-- The fault mark (R24). -/
  fault : Option FaultMark
  /-- The refusal mark (R25). -/
  refused : Option RefusalMark
  /-- The trace, oldest event first (R26). -/
  trace : List Event
  /-- The response list, oldest first (R27). -/
  responses : List Response
  /-- The position of the next command in the stream (R32). -/
  k : Nat
  /-- MODEL'S OWN (log 1): the command bytes the host has presented, from position 0. -/
  stream : List Byte
  /-- MODEL'S OWN (log 3): the bus environment's next answers; where empty, `Config.env` answers. -/
  answers : List Bit
  /-- MODEL'S OWN (log 2): the named parameters of R10. -/
  params : Config.Params
  deriving DecidableEq, Repr

/-- The two faults of 60_exceptions R164, each with the state it leaves: the fault mark set, nothing
cleared, nothing emitted (log 4). -/
inductive Fault where
  /-- Raised by STOP, WRITE and READ, and by START without the pre-release, when a line is Unconfigured
  (R100), and by every later step on the marked state. Safe: R164 gives no further step. -/
  | notInitialised (s : State)
  /-- Raised by LINE_READ of an Unconfigured line (R88), and by every later step on the marked state.
  Safe: R164 gives no further step. -/
  | readUnconfigured (s : State)
  deriving DecidableEq, Repr

/-- The decoder's refusals, each with the state it leaves, the refusal mark set (R165, log 4). -/
inductive Refusal where
  /-- Raised by `exec` for a command that has no meaning yet; no arm of this model does. Safe. -/
  | notModelled (mnemonic : String)
  /-- Raised by the decoder on an illegal opcode byte (R70), and by every later step on the marked
  state. Safe: R165 gives no further step. -/
  | illegalOpcode (s : State)
  /-- Raised by the decoder on a stream that ends inside a command (R71), and by every later step on
  the marked state. Safe: R165 gives no further step. -/
  | truncated (s : State)
  deriving DecidableEq, Repr

/-- The state at power-on (R35, R180). `stream`, `answers` and `params` are the model's own: no
command presented yet, every draw from `Config.env`, the parameter values of R10. -/
def State.reset : State :=
  { drvSda := .unconfigured, drvScl := .unconfigured, fault := none, refused := none,
    trace := [], responses := [], k := 0, stream := [], answers := [],
    params := Config.specParams }

end Sys2Proof.Machine
end

