-- ==== Sys2Proof/Machine/Ops.lean ====
section
/-! DEFINITION. The named operations every meaning is written in: access to `drv`, the four primitives
of 40_line_driver section 1, the response, and the raising of a fault or a refusal
(60_exceptions R164, R165). -/

namespace Sys2Proof.Machine

/-- `drv[p]` (10_state R21). -/
def driver (p : Line) (s : State) : Drive :=
  match p with
  | .sda => s.drvSda
  | .scl => s.drvScl

/-- `drv[p] <- v` (00_scope R12). -/
def setDriver (p : Line) (v : Drive) (s : State) : State :=
  match p with
  | .sda => { s with drvSda := v }
  | .scl => { s with drvScl := v }

/-- Append one event to the trace (10_state R26). -/
def emit (e : Event) (s : State) : State := { s with trace := s.trace ++ [e] }

/-- The pad signals `sda_drive_low` and `scl_drive_low` (00_scope R9). -/
def padLow (p : Line) (s : State) : Bool := driver p s == .drivenLow

/-- The level of line `p`, the wired AND of the block's driver and of `others`, the level the bus
environment alone would give (40_line_driver R82). -/
def lineLevel (p : Line) (s : State) (others : Bit) : Bit := !padLow p s && others

/-- The bus environment's answer for line `p` now: a draw (R83, log 3). -/
def draw (p : Line) (s : State) : Bit :=
  match s.answers with
  | v :: _ => v
  | [] => Config.env s.trace p

/-- The bus environment has answered one sample (log 3). -/
def takeAnswer (s : State) : State := { s with answers := s.answers.tail }

/-- `DriveLow(p)` (R80). -/
def driveLow (p : Line) (s : State) : State := emit (.drive p) (setDriver p .drivenLow s)

/-- `Release(p)` (R81). -/
def release (p : Line) (s : State) : State := emit (.release p) (setDriver p .released s)

/-- `Sample(p)` (R83): 0 on a line the block drives low, without asking the environment (D14), else
a draw. -/
def sample (p : Line) (s : State) : Bit × State :=
  if padLow p s then (false, emit (.sample p false) s)
  else (lineLevel p s (draw p s), emit (.sample p (lineLevel p s (draw p s))) (takeAnswer s))

/-- `Delay(n)` (R84). -/
def delay (n : Nat) (s : State) : State := emit (.delay n) s

/-- `respond(v)` (10_state R27). -/
def respond (r : Response) (s : State) : State := { s with responses := s.responses ++ [r] }

/-- Has line `p` been driven or released since power-on (R21)? -/
def configured (p : Line) (s : State) : Bool := driver p s != .unconfigured

/-- The common precondition of the bus commands (41_bus_engine R100). -/
def bothConfigured (s : State) : Bool := configured .sda s && configured .scl s

/-- The fault mark set to a reason and the command position (60_exceptions R164). -/
def markFault (r : FaultReason) (s : State) : State := { s with fault := some ⟨r, s.k⟩ }

/-- The refusal mark set to a reason and the position of the opcode byte (30_encoding R70, R71). -/
def markRefused (r : RefusalReason) (s : State) : State := { s with refused := some ⟨r, s.k⟩ }

/-- The fault of a reason, leaving state `s`. -/
def faultOf (r : FaultReason) (s : State) : Fault :=
  match r with
  | .notInitialised => .notInitialised s
  | .readUnconfigured => .readUnconfigured s

/-- The refusal of a reason, leaving state `s`. -/
def refusalOf (r : RefusalReason) (s : State) : Refusal :=
  match r with
  | .illegalOpcode => .illegalOpcode s
  | .truncated => .truncated s

/-- `raise Fault(reason)` (R12, R164): the step ends in a fault; the mark is set, no event, no response,
`drv` unchanged. -/
def raiseFault (r : FaultReason) (s : State) : Host.Outcome State Fault Refusal :=
  .fault (faultOf r (markFault r s))

/-- `refuse(reason)` (R12, R165): the mark is set, no event, no response. -/
def refuse (r : RefusalReason) (s : State) : Host.Outcome State Fault Refusal :=
  .refused (refusalOf r (markRefused r s))

/-- Run `body` when `ok` holds, else raise the fault before the first event (R100, R88). -/
def guarded (ok : Bool) (r : FaultReason) (body : State → State) (s : State) :
    Host.Outcome State Fault Refusal :=
  if ok then .next (body s) else raiseFault r s

/-- The stream position moves past a decoded command (10_state R32). -/
def advance (n : Nat) (s : State) : State := { s with k := s.k + n }

/-- The position moves on in the state a fault leaves (R32, log 5). -/
def advanceFault (n : Nat) (f : Fault) : Fault :=
  match f with
  | .notInitialised s => .notInitialised (advance n s)
  | .readUnconfigured s => .readUnconfigured (advance n s)

/-- What `step` adds around `exec`: the position moves by the command's length (R32, R68), also past a
command that faults (log 5). -/
def afterExec (i : Instr) (o : Host.Outcome State Fault Refusal) :
    Host.Outcome State Fault Refusal :=
  match o with
  | .next s => .next (advance (instrLength i) s)
  | .fault f => .fault (advanceFault (instrLength i) f)
  | .refused r => .refused r

/-- A block with nothing to decode waits for the host and changes nothing (log 6). -/
def waitForHost (s : State) : State := s

/-- The state a fault leaves. -/
def faultState (f : Fault) : State :=
  match f with
  | .notInitialised s => s
  | .readUnconfigured s => s

/-- The state a refusal leaves; a command without a meaning leaves none. -/
def refusalState (r : Refusal) : Option State :=
  match r with
  | .illegalOpcode s => some s
  | .truncated s => some s
  | _ => none

/-- The state an outcome leaves. -/
def stateAfter (o : Host.Outcome State Fault Refusal) : Option State :=
  match o with
  | .next s => some s
  | .fault f => some (faultState f)
  | .refused r => refusalState r

/-- The bytes the decoder sees: the stream from position `k` (R32). -/
def remaining (s : State) : List Byte := s.stream.drop s.k

/-- The decoder at the current position (R60, R73). -/
def fetch (s : State) : Decoded := decode (remaining s)

/-- The host presents more command bytes (00_scope R9, R14; log 1). -/
def present (bytes : List Byte) (s : State) : State := { s with stream := s.stream ++ bytes }

/-- A stream with `bytes` standing from position `k` on; what lies before and after stays. Positions
before `k` that the host has not presented read 0. -/
def overwriteAt (k : Nat) (bytes stream : List Byte) : List Byte :=
  stream.take k ++ List.replicate (k - stream.length) 0 ++ bytes
    ++ stream.drop (k + bytes.length)

/-- Load `bytes` where the decoder reads next (log 1). -/
def loadAtPosition (bytes : List Byte) (s : State) : State :=
  { s with stream := overwriteAt s.k bytes s.stream }

end Sys2Proof.Machine
end

