-- ==== Sys2Proof/Machine/BusEngine.lean ====
section
/-! DEFINITION. The bus engine commands INIT, START, STOP, WRITE and READ (41_bus_engine). -/

namespace Sys2Proof.Machine

/-- INIT (R101): release SDA, then SCL. -/
def execInit (s : State) : Host.Outcome State Fault Refusal :=
  .next (respond .none (release .scl (release .sda s)))

/-- START's pre-release of both lines (R102, decision D7). -/
def startPrerelease (s : State) : State := release .scl (release .sda s)

/-- START's step list: SDA low, hold, SCL low, hold (R102). -/
def startSequence (s : State) : State :=
  delay s.params.tStaScl (driveLow .scl (delay s.params.tHdSta (driveLow .sda s)))

/-- START (R102): no precondition with the pre-release, else the check of R100. -/
def execStart (s : State) : Host.Outcome State Fault Refusal :=
  if s.params.startPrerelease then
    .next (respond .none (startSequence (startPrerelease s)))
  else
    guarded (bothConfigured s) .notInitialised (fun s => respond .none (startSequence s)) s

/-- STOP's step list (R103): SDA low, SCL low, SCL released, hold, SDA released, hold. -/
def stopSequence (s : State) : State :=
  delay s.params.tStoEnd (release .sda
    (delay s.params.tSuSto (release .scl (driveLow .scl (driveLow .sda s)))))

/-- STOP (R103). -/
def execStop (s : State) : Host.Outcome State Fault Refusal :=
  guarded (bothConfigured s) .notInitialised (fun s => respond .none (stopSequence s)) s

/-- Put a bit on SDA: drive low for 0, release for 1 (R104, R106). -/
def putSda (b : Bit) (s : State) : State := if b then release .sda s else driveLow .sda s

/-- One data bit of WRITE (R104): SDA set, hold, SCL released, hold, SCL low, hold. -/
def writeBit (s : State) (b : Bit) : State :=
  delay s.params.tWrHdDat (driveLow .scl
    (delay s.params.tWrHigh (release .scl (delay s.params.tWrSuDat (putSda b s)))))

/-- The eight data bits of WRITE, most significant first (R104, 20_memory R42). -/
def writeBits (d : Byte) (s : State) : State :=
  wireOrder.foldl (fun s i => writeBit s (bitOf d i)) s

/-- The ninth clock of WRITE and its sample of SDA (R104, R105). -/
def writeAck (s : State) : Bit × State :=
  let (v, s) := sample .sda (delay s.params.tWrAckSu (release .scl (release .sda s)))
  (v, delay s.params.tWrSettle (driveLow .scl s))

/-- WRITE once the lines are configured (R104). -/
def writeSequence (d : Byte) (s : State) : State :=
  let (v, s) := writeAck (writeBits d s)
  respond (.mask (writeMask v)) s

/-- WRITE d (R104). -/
def execWrite (d : Byte) (s : State) : Host.Outcome State Fault Refusal :=
  guarded (bothConfigured s) .notInitialised (writeSequence d) s

/-- One data bit of READ (R106): SCL released, two holds, the sample of SDA, SCL low, hold. -/
def readBit (s : State) : Bit × State :=
  let (v, s) := sample .sda (delay s.params.tRdHigh (delay s.params.tRdSu (release .scl s)))
  (v, delay s.params.tRdHd (driveLow .scl s))

/-- The sample of one clock of READ ORed into bit `i` of the received byte (R106). -/
def readInto (bs : Byte × State) (i : Nat) : Byte × State :=
  let (v, s) := readBit bs.2
  (orBit bs.1 v i, s)

/-- The eight data bits of READ, most significant first, from a received byte of 0 (R106, R33). -/
def readBits (s : State) : Byte × State := wireOrder.foldl readInto (0, s)

/-- The acknowledge clock that ends READ (R106, R107). -/
def readAck (a : Ack) (s : State) : State :=
  delay s.params.tRdSettle (release .sda (driveLow .scl
    (delay s.params.tRdAckHigh (release .scl
      (delay s.params.tRdAckSu (putSda (bitOfAck a) s))))))

/-- READ once the lines are configured (R106). -/
def readSequence (a : Ack) (s : State) : State :=
  let (b, s) := readBits (release .sda s)
  respond (.byte b) (readAck a s)

/-- READ a (R106). -/
def execRead (a : Ack) (s : State) : Host.Outcome State Fault Refusal :=
  guarded (bothConfigured s) .notInitialised (readSequence a) s

end Sys2Proof.Machine
end

