-- ==== Sys2Proof/Machine/CrcValidator.lean ====
section
/-! DEFINITION. The CRC-8 validator (42_crc8): the CRC function and the command CRCCHK. -/

namespace Sys2Proof.Machine

/-- One shift of the accumulator (R140): left by one, truncated to 8 bits, and XORed with the
polynomial when bit 7 was set. -/
def crcShift (poly acc : Byte) : Byte :=
  if bitOf acc 7 then (acc <<< 1) ^^^ poly else acc <<< 1

/-- One data byte into the accumulator: XOR, then eight shifts (R140). -/
def crcByte (poly acc d : Byte) : Byte := (crcShift poly)^[8] (acc ^^^ d)

/-- `crc8(data)` (R140), with the polynomial and the initial value of the parameters (00_scope R10). -/
def crc8 (c : Config.Params) (data : List Byte) : Byte :=
  data.foldl (crcByte c.crcPoly) c.crcInit

/-- `trunc8(v) = v mod 256` (00_scope R11). -/
def trunc8 (v : Nat) : Nat := v % 256

/-- One shift as R140 writes it, on naturals in the notation of R11. -/
def crcShiftNat (acc : Nat) : Nat :=
  if acc.testBit 7 then trunc8 ((acc <<< 1) ^^^ 0x31) else trunc8 (acc <<< 1)

/-- R140's pseudocode on naturals, literals and all. Nothing in the meanings uses it: a statement
compares it with `crc8`. -/
def crc8Nat (data : List Nat) : Nat :=
  data.foldl (fun acc d => crcShiftNat^[8] (acc ^^^ d)) 0x00

/-- CRCCHK data, c (R141): no line is touched and no event emitted. -/
def execCrcchk (data : List Byte) (c : Byte) (s : State) : Host.Outcome State Fault Refusal :=
  .next (respond (.mask (crcMask (crc8 s.params data) c)) s)

end Sys2Proof.Machine
end

