-- ==== Sys2Proof/Machine/LineDriver.lean ====
section
/-! DEFINITION. The line driver and delay commands LINE_LOW, LINE_RELEASE, LINE_READ and DELAY
(40_line_driver section 2). -/

namespace Sys2Proof.Machine

/-- LINE_LOW p (R86). -/
def execLineLow (p : Line) (s : State) : Host.Outcome State Fault Refusal :=
  .next (respond .none (driveLow p s))

/-- LINE_RELEASE p (R87). -/
def execLineRelease (p : Line) (s : State) : Host.Outcome State Fault Refusal :=
  .next (respond .none (release p s))

/-- The sample and response of LINE_READ (R88). -/
def readLine (p : Line) (s : State) : State :=
  let (v, s) := sample p s
  respond (.level v) s

/-- LINE_READ p (R88): ReadUnconfigured before any event when `drv[p]` is Unconfigured. -/
def execLineRead (p : Line) (s : State) : Host.Outcome State Fault Refusal :=
  guarded (configured p s) .readUnconfigured (readLine p) s

/-- DELAY n (R89). -/
def execDelay (n : Count) (s : State) : Host.Outcome State Fault Refusal :=
  .next (respond .none (delay n.toNat s))

end Sys2Proof.Machine
end

