-- ==== Sys2Proof/Machine/Dispatch.lean ====
section
/-! DEFINITION. The meaning of each command, one arm per row of spec/opcode_table.json. -/

namespace Sys2Proof.Machine

def exec (i : Instr) (s : State) : Host.Outcome State Fault Refusal :=
  match i with
  | .init => Sys2Proof.Machine.execInit s
  | .start => Sys2Proof.Machine.execStart s
  | .stop => Sys2Proof.Machine.execStop s
  | .write d => Sys2Proof.Machine.execWrite d s
  | .read a => Sys2Proof.Machine.execRead a s
  | .crcchk data c => Sys2Proof.Machine.execCrcchk data c s
  | .lineLow p => Sys2Proof.Machine.execLineLow p s
  | .lineRelease p => Sys2Proof.Machine.execLineRelease p s
  | .lineRead p => Sys2Proof.Machine.execLineRead p s
  | .delay n => Sys2Proof.Machine.execDelay n s

end Sys2Proof.Machine
end

