-- ==== Sys2Proof/Machine/Step.lean ====
section
/-! DEFINITION. One step of the block (00_scope R8, R13): a marked block takes no step (10_state R24,
R25) and answers its fault or refusal again; else the decoder reads one command at `k` and the
command is executed. -/

namespace Sys2Proof.Machine

/-- One step (R8, R13, R24, R25, R70, R71). -/
def step (s : State) : Host.Outcome State Fault Refusal :=
  match s.fault, s.refused with
  | some m, _ => .fault (faultOf m.reason s)
  | none, some m => .refused (refusalOf m.reason s)
  | none, none =>
    match fetch s with
    | .nothing => .next (waitForHost s)
    | .refuse r => refuse r s
    | .command i _ => afterExec i (exec i s)

/-- `s` with the instruction whose bits are `w` standing in the command stream at position `k`,
where `step` reads its next command. -/
def State.withFetchWord (s : State) (nbits w : Nat) : State :=
  loadAtPosition (tableBytes nbits w) s

end Sys2Proof.Machine
end

