-- ==== Sys2Proof/Machine/Assembler.lean ====
section
/-! DEFINITION. The assembler syntax of 30_encoding section 5: one command per line (R74) and the
pseudo-instructions (R75). Text is a list of characters. What R74 leaves open of the text form is
log 9. -/

namespace Sys2Proof.Machine

/-- One line of assembly, its numbers not yet checked against their ranges (R74, R75). -/
inductive AsmLine where
  | init | start | stop
  | write (d : Nat)
  | read (a : Ack)
  | crcchk (data : List Nat) (c : Nat)
  | lineLow (p : Line)
  | lineRelease (p : Line)
  | lineRead (p : Line)
  | delay (n : Nat)
  /-- Pseudo: a repeated start (R75). -/
  | rstart
  /-- Pseudo: the address byte with the write bit (R75). -/
  | addrw (a : Nat)
  /-- Pseudo: the address byte with the read bit (R75). -/
  | addrr (a : Nat)
  /-- Pseudo: a delay in milliseconds (R75). -/
  | delayMs (m : Nat)
  deriving DecidableEq, Repr

/-- A number within `0 … bound`, "an operand out of its range is an assembly error" (R74). -/
def inRange (bound n : Nat) : Option Nat := if n ≤ bound then some n else none

/-- A number as a byte, none when out of range (R74). -/
def asmByte (n : Nat) : Option Byte := (inRange 255 n).map (BitVec.ofNat 8)

/-- The command a line of assembly stands for, none on an operand out of its range (R74, R75). -/
def assemble : AsmLine → Option Instr
  | .init => some .init
  | .start => some .start
  | .stop => some .stop
  | .write d => (asmByte d).map .write
  | .read a => some (.read a)
  | .crcchk data c =>
    match data.mapM asmByte, asmByte c, inRange maxCrcData data.length with
    | some bytes, some sum, some _ => some (.crcchk bytes sum)
    | _, _, _ => none
  | .lineLow p => some (.lineLow p)
  | .lineRelease p => some (.lineRelease p)
  | .lineRead p => some (.lineRead p)
  | .delay n => (inRange 65535 n).map (fun n => .delay (BitVec.ofNat 16 n))
  | .rstart => some .start
  | .addrw a => (inRange 127 a).map (fun a => .write (BitVec.ofNat 8 (a <<< 1 ||| 0)))
  | .addrr a => (inRange 127 a).map (fun a => .write (BitVec.ofNat 8 (a <<< 1 ||| 1)))
  | .delayMs m => (inRange 65 m).map (fun m => .delay (BitVec.ofNat 16 (1000 * m)))

/-- A token of a line: a word (mnemonic, name or number) or a mark. -/
inductive Token where
  | word (cs : List Char)
  | comma
  | open
  | close
  deriving DecidableEq, Repr

/-- The word read so far, kept in reverse, as a token unless it is empty. -/
def flushWord (acc : List Char) : List Token :=
  match acc with
  | [] => []
  | c :: cs => [.word (c :: cs).reverse]

/-- The tokens of a line; `;` starts a comment (R74). `acc` is the current word in reverse. -/
def tokenize (acc : List Char) : List Char → List Token
  | [] => flushWord acc
  | c :: cs =>
    if c = ';' then flushWord acc
    else if c = ' ' ∨ c = '\t' ∨ c = '\r' then flushWord acc ++ tokenize [] cs
    else if c = ',' then flushWord acc ++ .comma :: tokenize [] cs
    else if c = '[' then flushWord acc ++ .open :: tokenize [] cs
    else if c = ']' then flushWord acc ++ .close :: tokenize [] cs
    else tokenize (c :: acc) cs

/-- The value of a hexadecimal digit. -/
def hexDigit (c : Char) : Option Nat :=
  let n := c.toNat
  if 48 ≤ n ∧ n ≤ 57 then some (n - 48)
  else if 65 ≤ n ∧ n ≤ 70 then some (n - 55)
  else if 97 ≤ n ∧ n ≤ 102 then some (n - 87)
  else none

/-- The digits of a number in a base, most significant first, onto what is read so far. -/
def digits (base acc : Nat) : List Char → Option Nat
  | [] => some acc
  | c :: cs =>
    match hexDigit c with
    | none => none
    | some v => if v < base then digits base (acc * base + v) cs else none

/-- A number "in decimal or with prefix 0x" (R74). -/
def number : List Char → Option Nat
  | [] => none
  | '0' :: 'x' :: c :: cs => digits 16 0 (c :: cs)
  | c :: cs => digits 10 0 (c :: cs)

/-- The numbers of a bracketed list after its first, up to the closing bracket, and what follows. -/
def listTail : List Token → Option (List Nat × List Token)
  | .close :: rest => some ([], rest)
  | .comma :: .word w :: rest =>
    match number w, listTail rest with
    | some n, some (ns, after) => some (n :: ns, after)
    | _, _ => none
  | _ => none

/-- A bracketed list of numbers, possibly empty, its opening bracket already read. -/
def numberList : List Token → Option (List Nat × List Token)
  | .close :: rest => some ([], rest)
  | .word w :: rest =>
    match number w, listTail rest with
    | some n, some (ns, after) => some (n :: ns, after)
    | _, _ => none
  | _ => none

/-- A line name (R74). -/
def lineName (w : List Char) : Option Line :=
  if w = ['S', 'D', 'A'] then some .sda
  else if w = ['S', 'C', 'L'] then some .scl
  else none

/-- An acknowledge name (R74). -/
def ackName (w : List Char) : Option Ack :=
  if w = ['A', 'C', 'K'] then some .ack
  else if w = ['N', 'A', 'C', 'K'] then some .noAck
  else none

/-- A line with a mnemonic and no operand (R74, R75). -/
def parseBare (m : List Char) : Option AsmLine :=
  if m = ['I', 'N', 'I', 'T'] then some .init
  else if m = ['S', 'T', 'A', 'R', 'T'] then some .start
  else if m = ['S', 'T', 'O', 'P'] then some .stop
  else if m = ['R', 'S', 'T', 'A', 'R', 'T'] then some .rstart
  else none

/-- A line with a mnemonic and one operand word (R74, R75). -/
def parseUnary (m w : List Char) : Option AsmLine :=
  if m = ['W', 'R', 'I', 'T', 'E'] then (number w).map .write
  else if m = ['R', 'E', 'A', 'D'] then (ackName w).map .read
  else if m = ['L', 'I', 'N', 'E', '_', 'L', 'O', 'W'] then (lineName w).map .lineLow
  else if m = ['L', 'I', 'N', 'E', '_', 'R', 'E', 'L', 'E', 'A', 'S', 'E'] then
    (lineName w).map .lineRelease
  else if m = ['L', 'I', 'N', 'E', '_', 'R', 'E', 'A', 'D'] then (lineName w).map .lineRead
  else if m = ['D', 'E', 'L', 'A', 'Y'] then (number w).map .delay
  else if m = ['A', 'D', 'D', 'R', 'W'] then (number w).map .addrw
  else if m = ['A', 'D', 'D', 'R', 'R'] then (number w).map .addrr
  else if m = ['D', 'E', 'L', 'A', 'Y', '_', 'M', 'S'] then (number w).map .delayMs
  else none

/-- The operands of CRCCHK after its opening bracket (R74). -/
def parseCrcchk (ts : List Token) : Option AsmLine :=
  match numberList ts with
  | some (ns, [.comma, .word w]) => (number w).map (.crcchk ns)
  | _ => none

/-- The tokens of one non-empty line (R74). -/
def parseLine : List Token → Option AsmLine
  | [.word m] => parseBare m
  | [.word m, .word w] => parseUnary m w
  | .word m :: .open :: ts =>
    if m = ['C', 'R', 'C', 'C', 'H', 'K'] then parseCrcchk ts else none
  | _ => none

/-- The lines of a text, without their line ends; `acc` is the current line in reverse. -/
def splitLines (acc : List Char) : List Char → List (List Char)
  | [] => [acc.reverse]
  | c :: cs => if c = '\n' then acc.reverse :: splitLines [] cs else splitLines (c :: acc) cs

/-- The commands of one line: none for an empty one, an error as `none` (R74). -/
def assembleLine (cs : List Char) : Option (List Instr) :=
  match tokenize [] cs with
  | [] => some []
  | ts => (parseLine ts).bind (fun l => (assemble l).map (fun i => [i]))

/-- The commands of a text, one per line (R74). -/
def assembleText (cs : List Char) : Option (List Instr) :=
  ((splitLines [] cs).mapM assembleLine).map List.flatten

end Sys2Proof.Machine
end

