-- ==== Sys2Proof/Machine/Waveform.lean ====
section
/-! DEFINITION. The event lists of the bus engine commands, transcribed from the pseudocode and the
full traces of 41_bus_engine R101 to R106 as data, and the measures of R111. Nothing in the meanings
uses them: statements compare the two. -/

namespace Sys2Proof.Machine

open Sys2Proof.Config

/-- INIT (R101). -/
def initEvents : List Event := [.release .sda, .release .scl]

/-- START's literal step list (R102). -/
def startStepList (c : Params) : List Event :=
  [.drive .sda, .delay c.tHdSta, .drive .scl, .delay c.tStaScl]

/-- START, with the pre-release when START_PRERELEASE is true (R102). -/
def startEvents (c : Params) : List Event :=
  if c.startPrerelease then .release .sda :: .release .scl :: startStepList c
  else startStepList c

/-- STOP (R103). -/
def stopEvents (c : Params) : List Event :=
  [.drive .sda, .drive .scl, .release .scl, .delay c.tSuSto, .release .sda, .delay c.tStoEnd]

/-- The SDA action that puts a bit on the wire: release for 1, drive for 0 (R104). -/
def sdaAction (b : Bit) : Event := if b then .release .sda else .drive .sda

/-- The six events of one data bit of WRITE (R104). -/
def writeBitEvents (c : Params) (b : Bit) : List Event :=
  [sdaAction b, .delay c.tWrSuDat, .release .scl, .delay c.tWrHigh, .drive .scl, .delay c.tWrHdDat]

/-- The 48 data events of WRITE: the first data bit on the wire is bit 7, the eighth bit 0 (R104,
20_memory R42). -/
def writeDataEvents (c : Params) (d : Byte) : List Event :=
  writeBitEvents c (d.getLsbD 7) ++ writeBitEvents c (d.getLsbD 6)
    ++ writeBitEvents c (d.getLsbD 5) ++ writeBitEvents c (d.getLsbD 4)
    ++ writeBitEvents c (d.getLsbD 3) ++ writeBitEvents c (d.getLsbD 2)
    ++ writeBitEvents c (d.getLsbD 1) ++ writeBitEvents c (d.getLsbD 0)

/-- The events of WRITE before its acknowledge sample (R104). -/
def writeEventsBeforeAck (c : Params) (d : Byte) : List Event :=
  writeDataEvents c d ++ [.release .sda, .release .scl, .delay c.tWrAckSu]

/-- All events of WRITE d with acknowledge sample `v` (R104). -/
def writeEvents (c : Params) (d : Byte) (v : Bit) : List Event :=
  writeEventsBeforeAck c d ++ [.sample .sda v, .drive .scl, .delay c.tWrSettle]

/-- The events of one data bit of READ before its sample (R106). -/
def readBitEventsBefore (c : Params) : List Event :=
  [.release .scl, .delay c.tRdSu, .delay c.tRdHigh]

/-- The six events of one data bit of READ with sample `v` (R106). -/
def readBitEvents (c : Params) (v : Bit) : List Event :=
  readBitEventsBefore c ++ [.sample .sda v, .drive .scl, .delay c.tRdHd]

/-- The events of READ up to the end of the clocks that sampled `vs`, oldest first (R106). -/
def readEventsAfter (c : Params) (vs : List Bit) : List Event :=
  .release .sda :: vs.flatMap (readBitEvents c)

/-- The acknowledge READ puts on SDA: driven low for ACK, released for NO_ACK (R106, R107). -/
def ackAction : Ack → Event
  | .ack => .drive .sda
  | .noAck => .release .sda

/-- The seven events of READ's acknowledge clock (R106). -/
def readAckEvents (c : Params) (a : Ack) : List Event :=
  [ackAction a, .delay c.tRdAckSu, .release .scl, .delay c.tRdAckHigh, .drive .scl,
   .release .sda, .delay c.tRdSettle]

/-- All events of READ a with data samples `vs`, oldest first (R106). -/
def readEvents (c : Params) (a : Ack) (vs : List Bit) : List Event :=
  readEventsAfter c vs ++ readAckEvents c a

/-- The byte of eight samples, the first of them bit 7 (R106, 20_memory R42). -/
def byteOfSamples (vs : List Bit) : Byte :=
  vs.foldl (fun b v => (b <<< 1) ||| (if v then 1 else 0)) 0

/-- The minimum total of the delays, in microseconds (R111). -/
def delayTotal : List Event → Nat
  | [] => 0
  | .delay n :: es => n + delayTotal es
  | .drive _ :: es => delayTotal es
  | .release _ :: es => delayTotal es
  | .sample _ _ :: es => delayTotal es

/-- The number of samples of line `p` (R111, R113). -/
def sampleCount (p : Line) : List Event → Nat
  | [] => 0
  | .sample q _ :: es => (if q = p then 1 else 0) + sampleCount p es
  | .drive _ :: es => sampleCount p es
  | .release _ :: es => sampleCount p es
  | .delay _ :: es => sampleCount p es

/-- An event with its sampled value forgotten, the shape R109 speaks of. -/
def eventShape : Event → Event
  | .drive p => .drive p
  | .release p => .release p
  | .sample p _ => .sample p false
  | .delay n => .delay n

end Sys2Proof.Machine
end

