-- ==== Sys2Proof/Machine/Wire.lean ====
section
/-! DEFINITION. What a list of events does to the two drivers, and the wire-level reading of
41_bus_engine R112 under its assumption that no other device pulls either line low (log 8). -/

namespace Sys2Proof.Machine

/-- The driver states of the two lines. -/
structure Lines where
  sda : Drive
  scl : Drive
  deriving DecidableEq, Repr

/-- The driver states of a state. -/
def linesOf (s : State) : Lines := ⟨s.drvSda, s.drvScl⟩

/-- The driver states before any event (10_state R35). -/
def linesAtPowerOn : Lines := ⟨.unconfigured, .unconfigured⟩

/-- The driver state of one line. -/
def lineDriver (p : Line) (l : Lines) : Drive :=
  match p with
  | .sda => l.sda
  | .scl => l.scl

/-- The driver states after one event (10_state R22: only drives and releases write them). -/
def linesAfter (l : Lines) (e : Event) : Lines :=
  match e with
  | .drive .sda => { l with sda := .drivenLow }
  | .drive .scl => { l with scl := .drivenLow }
  | .release .sda => { l with sda := .released }
  | .release .scl => { l with scl := .released }
  | .sample _ _ => l
  | .delay _ => l

/-- The driver states after a list of events. -/
def replay (l : Lines) (es : List Event) : Lines := es.foldl linesAfter l

/-- The level of a line when no other device pulls it low: "0 exactly when the block drives it"
(R112). -/
def idealLevel (d : Drive) : Bit := d != .drivenLow

/-- An event that makes SDA fall while SCL is high: a start condition (R112). -/
def isStartCondition (l : Lines) (e : Event) : Bool :=
  idealLevel l.scl && idealLevel (linesAfter l e).scl
    && idealLevel l.sda && !idealLevel (linesAfter l e).sda

/-- An event that makes SDA rise while SCL is high: a stop condition (R112). -/
def isStopCondition (l : Lines) (e : Event) : Bool :=
  idealLevel l.scl && idealLevel (linesAfter l e).scl
    && !idealLevel l.sda && idealLevel (linesAfter l e).sda

/-- An event that takes SCL from driven low to released, the rising edge of a clock pulse (R111). -/
def isClockRise (l : Lines) (e : Event) : Bool :=
  l.scl == .drivenLow && (linesAfter l e).scl == .released

/-- How many events of a list satisfy a test of the driver states before the event and of the
event, from driver states `l`. -/
def countAlong (test : Lines → Event → Bool) (l : Lines) : List Event → Nat
  | [] => 0
  | e :: es => (if test l e then 1 else 0) + countAlong test (linesAfter l e) es

/-- The number of start conditions on the wire (R112). -/
def startConditions (l : Lines) (es : List Event) : Nat := countAlong isStartCondition l es

/-- The number of stop conditions on the wire (R112). -/
def stopConditions (l : Lines) (es : List Event) : Nat := countAlong isStopCondition l es

/-- The number of SCL low-to-released pulses (R111). -/
def clockRises (l : Lines) (es : List Event) : Nat := countAlong isClockRise l es

/-- A sample the block can make: never of an Unconfigured line, and 0 on a line it drives low
(40_line_driver R83). -/
def sampleAllowed (l : Lines) (e : Event) : Bool :=
  match e with
  | .sample p v =>
    lineDriver p l != .unconfigured && (lineDriver p l != .drivenLow || v == false)
  | .drive _ => true
  | .release _ => true
  | .delay _ => true

/-- Every sample of a list is one the block can make. -/
def samplesAllowed (l : Lines) : List Event → Bool
  | [] => true
  | e :: es => sampleAllowed l e && samplesAllowed (linesAfter l e) es

end Sys2Proof.Machine
end

