-- ==== Sys2Proof/Safety.lean ====
section
/-! DEFINITION. What a safe run is, in the terms the statements use: the end of a run
(70_reset_and_hazards R193), the invariants every step keeps, and the execution of a list of
commands. -/

namespace Sys2Proof.Machine

/-- A block with a mark takes no step (10_state R24, R25). -/
def marked (s : State) : Bool := s.fault.isSome || s.refused.isSome

/-- A run has ended normally: every byte consumed, no mark set (R193). -/
def endedNormally (s : State) : Bool := s.k == s.stream.length && !marked s

/-- The precondition fault a command raises in a state, if any (60_exceptions R164). -/
def preconditionFault (i : Instr) (s : State) : Option FaultReason :=
  match i with
  | .init => none
  | .start => if s.params.startPrerelease || bothConfigured s then none else some .notInitialised
  | .stop => if bothConfigured s then none else some .notInitialised
  | .write _ => if bothConfigured s then none else some .notInitialised
  | .read _ => if bothConfigured s then none else some .notInitialised
  | .crcchk _ _ => none
  | .lineLow _ => none
  | .lineRelease _ => none
  | .lineRead p => if configured p s then none else some .readUnconfigured
  | .delay _ => none

/-- A response the block can give: a mask has one of the values 0x00, 0x01, 0x04 (10_state R29). -/
def responseAllowed : Response → Bool
  | .none => true
  | .mask m => m == 0x00 || m == ackError || m == checksumError
  | .byte _ => true
  | .level _ => true

/-- The trace accounts for the drivers: replaying it from power-on gives `drv` (10_state R21, R22,
R26), and every sample in it is one the block can make (40_line_driver R83). -/
abbrev TraceConsistent (s : State) : Prop :=
  replay linesAtPowerOn s.trace = linesOf s ∧ samplesAllowed linesAtPowerOn s.trace = true

/-- The bookkeeping is in order: the position lies in the stream, at most one mark is set, a fault mark
names a byte before the position and a refusal mark the byte at it, every response is one the block
can give, and there are no more responses than bytes consumed. -/
abbrev BookkeepingInOrder (s : State) : Prop :=
  s.k ≤ s.stream.length ∧ s.responses.length ≤ s.k ∧
  (s.fault = none ∨ s.refused = none) ∧
  (∀ m ∈ s.fault, m.pos < s.k) ∧
  (∀ m ∈ s.refused, m.pos = s.k ∧ m.pos < s.stream.length) ∧
  (∀ r ∈ s.responses, responseAllowed r = true)

/-- The commands of a program already decoded, in order (30_encoding R76), each with what `step` adds
around it, stopping at the first fault. -/
def runCommands : List Instr → State → Host.Outcome State Fault Refusal
  | [], s => .next s
  | i :: is, s =>
    match afterExec i (exec i s) with
    | .next t => runCommands is t
    | .fault f => .fault f
    | .refused r => .refused r

/-- A command of the inside of a transaction: WRITE, READ or a repeated START (41_bus_engine R112). -/
def isTransferCommand : Instr → Bool
  | .init => false
  | .start => true
  | .stop => false
  | .write _ => true
  | .read _ => true
  | .crcchk _ _ => false
  | .lineLow _ => false
  | .lineRelease _ => false
  | .lineRead _ => false
  | .delay _ => false

end Sys2Proof.Machine
end

