-- ==== Sys2Proof/Certificates/Slice0/Obligations.lean ====
section
/-! DEFINITION. The statements about the block, for the provers. Each docstring names the rule of spec/
it formalises, or says that the spec marks the point as its own inference or that the model chose. -/

open Sys2Proof Sys2Proof.Machine Sys2Proof.Config

/-! ### Power-on and parameters -/

/-- The power-on state (10_state section 7); the first command executed is the one at position 0 of
whatever stream is presented (70_reset_and_hazards section 1), which rests on the model's choice that no
byte stands presented at power-on (log 1); the environment may answer anything from the start, said
through the model's own field of its answers (log 3). -/
def Obligations.PowerOnState : Prop :=
  State.reset.drvSda = .unconfigured ∧ State.reset.drvScl = .unconfigured ∧
  State.reset.fault = none ∧ State.reset.refused = none ∧
  State.reset.trace = [] ∧ State.reset.responses = [] ∧ State.reset.k = 0 ∧
  (∀ bytes, remaining (present bytes State.reset) = bytes) ∧
  (∀ p v, ∃ answers, draw p { State.reset with answers := answers } = v)

/-- 00_scope section 5: the named parameters have the values of the table at power-on. That they stand
in State is the model's choice (log 2). -/
def Obligations.PowerOnParameters : Prop :=
  State.reset.params =
    { tHdSta := 10, tStaScl := 10, tSuSto := 10, tStoEnd := 10,
      tWrSuDat := 1, tWrHigh := 5, tWrHdDat := 1, tWrAckSu := 1, tWrSettle := 20,
      tRdSu := 1, tRdHigh := 3, tRdHd := 1, tRdAckSu := 1, tRdAckHigh := 5, tRdSettle := 20,
      startPrerelease := true, crcPoly := 0x31, crcInit := 0x00 }

/-! ### The four primitives -/

/-- R80: `DriveLow(p)` in every state: the driver and the event, nothing else; from then on the pad
pulls and the level is 0 whatever the environment does. -/
def Obligations.DriveLowPullsTheLine : Prop :=
  ∀ (s : State),
    driveLow .sda s = { s with drvSda := .drivenLow, trace := s.trace ++ [.drive .sda] } ∧
    driveLow .scl s = { s with drvScl := .drivenLow, trace := s.trace ++ [.drive .scl] } ∧
    ∀ p, padLow p (driveLow p s) = true ∧ ∀ others, lineLevel p (driveLow p s) others = false

/-- R81: `Release(p)` in every state: the driver and the event, nothing else; from then on the pad
does not pull and the line has the level the environment gives it. -/
def Obligations.ReleaseLetsTheLineGo : Prop :=
  ∀ (s : State),
    release .sda s = { s with drvSda := .released, trace := s.trace ++ [.release .sda] } ∧
    release .scl s = { s with drvScl := .released, trace := s.trace ++ [.release .scl] } ∧
    ∀ p, padLow p (release p s) = false ∧ ∀ others, lineLevel p (release p s) others = others

/-- R83: a sample of a released line is a draw, which may be any value; of a driven line 0, the
environment not asked; the event is appended and `drv` is unchanged; WRITE, READ and LINE_READ check
the precondition before they sample. How the draw is held as data is log 3. -/
def Obligations.SampleReadsTheLine : Prop :=
  (∀ p (s : State), driver p s = .released →
    sample p s = (draw p s,
      { s with trace := s.trace ++ [.sample p (draw p s)], answers := s.answers.tail })) ∧
  (∀ p (s : State), s.answers = [] → draw p s = env s.trace p) ∧
  (∀ p (s : State) v, driver p s = .released →
    ∃ answers, (sample p { s with answers := answers }).1 = v) ∧
  (∀ p (s : State), driver p s = .drivenLow →
    sample p s = (false, { s with trace := s.trace ++ [.sample p false] })) ∧
  (∀ p (s : State), driver p s = .unconfigured →
    ∀ d a i, i = .write d ∨ i = .read a ∨ i = .lineRead p →
      ∀ t, stateAfter (exec i s) = some t → t.trace = s.trace)

/-- R84: `Delay(n)` appends its event, for every n, and changes no other state. -/
def Obligations.DelayOnlyAppendsItsEvent : Prop :=
  ∀ (n : Nat) (s : State), delay n s = { s with trace := s.trace ++ [.delay n] }

/-! ### Each command: its encoding, its fault and its whole result -/

/-- R101. The last clause is the corner case of R101: from SDA low and SCL released it makes a stop
condition on the wire, in the reading of log 8. -/
def Obligations.InitReleasesBothLines : Prop :=
  (∀ rest, decode (0x10 :: rest) = .command .init rest) ∧
  (∀ s : State, exec .init s = .next
    { s with
      drvSda := .released, drvScl := .released
      trace := s.trace ++ [.release .sda, .release .scl]
      responses := s.responses ++ [.none] }) ∧
  stopConditions ⟨.drivenLow, .released⟩ initEvents = 1

/-- R102: with the pre-release START completes in every state; without it, in every state with both
lines configured, and otherwise it faults. The corner cases: a repeated start after WRITE or READ is a
start condition on the wire with the pre-release and none without (log 8). -/
def Obligations.StartDrivesSdaThenScl : Prop :=
  (∀ rest, decode (0x20 :: rest) = .command .start rest) ∧
  (∀ s : State, s.params.startPrerelease = true → exec .start s = .next
    { s with
      drvSda := .drivenLow, drvScl := .drivenLow
      trace := s.trace ++ [.release .sda, .release .scl,
        .drive .sda, .delay s.params.tHdSta, .drive .scl, .delay s.params.tStaScl]
      responses := s.responses ++ [.none] }) ∧
  (∀ s : State, s.params.startPrerelease = false →
    s.drvSda ≠ .unconfigured → s.drvScl ≠ .unconfigured → exec .start s = .next
    { s with
      drvSda := .drivenLow, drvScl := .drivenLow
      trace := s.trace ++
        [.drive .sda, .delay s.params.tHdSta, .drive .scl, .delay s.params.tStaScl]
      responses := s.responses ++ [.none] }) ∧
  (∀ s : State, s.params.startPrerelease = false →
    (s.drvSda = .unconfigured ∨ s.drvScl = .unconfigured) → exec .start s =
      .fault (.notInitialised { s with fault := some ⟨.notInitialised, s.k⟩ })) ∧
  (∀ c : Params, c.startPrerelease = true →
    startConditions ⟨.released, .drivenLow⟩ (startEvents c) = 1) ∧
  (∀ c : Params, c.startPrerelease = false →
    startConditions ⟨.released, .drivenLow⟩ (startEvents c) = 0)

/-- R103. The corner cases on the wire (log 8): one stop condition and no start condition after WRITE
or READ, and a start condition first when issued from the idle bus. -/
def Obligations.StopReleasesSclThenSda : Prop :=
  (∀ rest, decode (0x30 :: rest) = .command .stop rest) ∧
  (∀ s : State, s.drvSda ≠ .unconfigured → s.drvScl ≠ .unconfigured → exec .stop s = .next
    { s with
      drvSda := .released, drvScl := .released
      trace := s.trace ++ [.drive .sda, .drive .scl, .release .scl, .delay s.params.tSuSto,
        .release .sda, .delay s.params.tStoEnd]
      responses := s.responses ++ [.none] }) ∧
  (∀ s : State, (s.drvSda = .unconfigured ∨ s.drvScl = .unconfigured) → exec .stop s =
      .fault (.notInitialised { s with fault := some ⟨.notInitialised, s.k⟩ })) ∧
  (∀ c : Params, startConditions ⟨.released, .drivenLow⟩ (stopEvents c) = 0 ∧
    stopConditions ⟨.released, .drivenLow⟩ (stopEvents c) = 1 ∧
    startConditions ⟨.released, .released⟩ (stopEvents c) = 1)

/-- R104: WRITE d. The eight data bits, most significant first, then the acknowledge clock with the
only sample, a draw at its own history; the mask is 0x01 when it reads 1 and 0x00 when it reads 0. -/
def Obligations.WriteSendsTheByteAndSamplesTheAck : Prop :=
  (∀ d rest, decode (0x40 :: d :: rest) = .command (.write d) rest) ∧
  (∀ d (s : State), s.drvSda ≠ .unconfigured → s.drvScl ≠ .unconfigured →
    ∀ v, v = draw .sda { s with trace := s.trace ++ writeEventsBeforeAck s.params d } →
      exec (.write d) s = .next
        { s with
          drvSda := .released, drvScl := .drivenLow
          trace := s.trace ++ writeEvents s.params d v
          responses := s.responses ++ [.mask (if v then 0x01 else 0x00)]
          answers := s.answers.tail }) ∧
  (∀ d (s : State), (s.drvSda = .unconfigured ∨ s.drvScl = .unconfigured) →
    exec (.write d) s =
      .fault (.notInitialised { s with fault := some ⟨.notInitialised, s.k⟩ }))

/-- R106: READ a. Eight samples of the released SDA, each a draw at its own history, assembled most
significant first; then the acknowledge clock. Bit i of the byte is the (8 − i)-th sample. -/
def Obligations.ReadAssemblesEightSamples : Prop :=
  (∀ rest, decode (0x50 :: rest) = .command (.read .ack) rest ∧
    decode (0x51 :: rest) = .command (.read .noAck) rest) ∧
  (∀ a (s : State), s.drvSda ≠ .unconfigured → s.drvScl ≠ .unconfigured →
    ∃ vs : List Bit, vs.length = 8 ∧
      (∀ i (h : i < vs.length), vs[i] = draw .sda
        { s with
          trace := s.trace ++ readEventsAfter s.params (vs.take i) ++ readBitEventsBefore s.params
          answers := s.answers.drop i }) ∧
      (∀ i, i < 8 → some ((byteOfSamples vs).getLsbD i) = vs[7 - i]?) ∧
      exec (.read a) s = .next
        { s with
          drvSda := .released, drvScl := .drivenLow
          trace := s.trace ++ readEvents s.params a vs
          responses := s.responses ++ [.byte (byteOfSamples vs)]
          answers := s.answers.drop 8 }) ∧
  (∀ a (s : State), (s.drvSda = .unconfigured ∨ s.drvScl = .unconfigured) →
    exec (.read a) s =
      .fault (.notInitialised { s with fault := some ⟨.notInitialised, s.k⟩ }))

/-- R141: CRCCHK data, c, in every state: one response, no event, no line touched. -/
def Obligations.CrcchkComparesTheChecksum : Prop :=
  (∀ (data : List Byte) c rest, data.length ≤ 255 →
    decode (0x60 :: BitVec.ofNat 8 data.length :: (data ++ c :: rest))
      = .command (.crcchk data c) rest) ∧
  (∀ data c (s : State), exec (.crcchk data c) s = .next
    { s with
      responses := s.responses ++ [.mask (if crc8 s.params data ≠ c then 0x04 else 0x00)] }) ∧
  crc8 specParams [] = 0x00 ∧ crc8 specParams [0x00] = 0x00 ∧ crc8 specParams [0xDC] = 0x79

/-- R86: LINE_LOW p, in every state. The last clause is its corner case on the wire (log 8). -/
def Obligations.LineLowDrivesTheLine : Prop :=
  (∀ rest, decode (0x70 :: rest) = .command (.lineLow .sda) rest ∧
    decode (0x71 :: rest) = .command (.lineLow .scl) rest) ∧
  (∀ s : State,
    exec (.lineLow .sda) s = .next
      { s with
        drvSda := .drivenLow, trace := s.trace ++ [.drive .sda]
        responses := s.responses ++ [.none] } ∧
    exec (.lineLow .scl) s = .next
      { s with
        drvScl := .drivenLow, trace := s.trace ++ [.drive .scl]
        responses := s.responses ++ [.none] }) ∧
  startConditions ⟨.released, .released⟩ [.drive .sda] = 1

/-- R87: LINE_RELEASE p, in every state. -/
def Obligations.LineReleaseReleasesTheLine : Prop :=
  (∀ rest, decode (0x72 :: rest) = .command (.lineRelease .sda) rest ∧
    decode (0x73 :: rest) = .command (.lineRelease .scl) rest) ∧
  (∀ s : State,
    exec (.lineRelease .sda) s = .next
      { s with
        drvSda := .released, trace := s.trace ++ [.release .sda]
        responses := s.responses ++ [.none] } ∧
    exec (.lineRelease .scl) s = .next
      { s with
        drvScl := .released, trace := s.trace ++ [.release .scl]
        responses := s.responses ++ [.none] })

/-- R88: LINE_READ p: a draw on a released line, 0 on a driven one, the fault before any event on an
unconfigured one; `drv` is unchanged, and on a released line either answer is possible. -/
def Obligations.LineReadRespondsTheLevel : Prop :=
  (∀ rest, decode (0x74 :: rest) = .command (.lineRead .sda) rest ∧
    decode (0x75 :: rest) = .command (.lineRead .scl) rest) ∧
  (∀ p (s : State), driver p s = .released →
    exec (.lineRead p) s = .next
      { s with
        trace := s.trace ++ [.sample p (draw p s)]
        responses := s.responses ++ [.level (draw p s)]
        answers := s.answers.tail }) ∧
  (∀ p (s : State) v, ∃ answers, draw p { s with answers := answers } = v) ∧
  (∀ p (s : State), driver p s = .drivenLow →
    exec (.lineRead p) s = .next
      { s with
        trace := s.trace ++ [.sample p false]
        responses := s.responses ++ [.level false] }) ∧
  (∀ p (s : State), driver p s = .unconfigured →
    exec (.lineRead p) s =
      .fault (.readUnconfigured { s with fault := some ⟨.readUnconfigured, s.k⟩ }))

/-- R89: DELAY n, in every state, its count high byte first. -/
def Obligations.DelayAppendsItsCount : Prop :=
  (∀ nh nl rest, ∃ n : Count, n.toNat = nh.toNat * 256 + nl.toNat ∧
    decode (0x80 :: nh :: nl :: rest) = .command (.delay n) rest) ∧
  (∀ (n : Count) (s : State), exec (.delay n) s = .next
    { s with
      trace := s.trace ++ [.delay n.toNat]
      responses := s.responses ++ [.none] })

/-! ### Faults and refusals -/

/-- R100: the bus commands fault before their first event while a line is unconfigured and the block
then stops; with both lines configured they pass the check; INIT, and START with the pre-release, have
no precondition. -/
def Obligations.BusCommandsNeedConfiguredLines : Prop :=
  (∀ (s : State) i,
    (i = .stop ∨ (∃ d, i = .write d) ∨ (∃ a, i = .read a) ∨
      (i = .start ∧ s.params.startPrerelease = false)) →
    (s.drvSda = .unconfigured ∨ s.drvScl = .unconfigured →
      exec i s = .fault (.notInitialised { s with fault := some ⟨.notInitialised, s.k⟩ }) ∧
      step { s with fault := some ⟨.notInitialised, s.k⟩ }
        = .fault (.notInitialised { s with fault := some ⟨.notInitialised, s.k⟩ })) ∧
    (s.drvSda ≠ .unconfigured → s.drvScl ≠ .unconfigured → ∃ t, exec i s = .next t)) ∧
  (∀ s : State, (∃ t, exec .init s = .next t) ∧
    (s.params.startPrerelease = true → ∃ t, exec .start s = .next t))

/-- R164: what a fault of a command at position k leaves: the mark, no event, no response, `drv`
unchanged, no further step whatever is presented next, not a normal end; and no command faults outside
the table of R164. That the outcome carries the state it leaves is log 4. -/
def Obligations.FaultIsMarkedAndSticky : Prop :=
  (∀ (s : State) i rest r, s.fault = none → s.refused = none → fetch s = .command i rest →
    (((i = .stop ∨ (∃ d, i = .write d) ∨ (∃ a, i = .read a) ∨
        (i = .start ∧ s.params.startPrerelease = false)) ∧
      (s.drvSda = .unconfigured ∨ s.drvScl = .unconfigured) ∧ r = FaultReason.notInitialised) ∨
     (∃ p, i = .lineRead p ∧ driver p s = .unconfigured ∧ r = FaultReason.readUnconfigured)) →
    ∃ t, step s = .fault (faultOf r t) ∧ t.fault = some ⟨r, s.k⟩ ∧ t.refused = none ∧
      t.trace = s.trace ∧ t.responses = s.responses ∧ t.drvSda = s.drvSda ∧
      t.drvScl = s.drvScl ∧ endedNormally t = false ∧
      ∀ bytes, step (present bytes t) = .fault (faultOf r (present bytes t))) ∧
  (∀ (s : State) f, s.fault = none → s.refused = none → step s = .fault f →
    ∃ i rest, fetch s = .command i rest ∧
      (((i = .stop ∨ (∃ d, i = .write d) ∨ (∃ a, i = .read a) ∨
          (i = .start ∧ s.params.startPrerelease = false)) ∧
        (s.drvSda = .unconfigured ∨ s.drvScl = .unconfigured)) ∨
       (∃ p, i = .lineRead p ∧ driver p s = .unconfigured)))

/-- R70: exactly 242 opcode bytes are illegal; one of them is refused at its position with nothing
else changed, and the block takes no further step; no operand byte is ever illegal. -/
def Obligations.IllegalOpcodesAreRefused : Prop :=
  ∀ legal : List Byte, legal = [0x10, 0x20, 0x30, 0x40, 0x50, 0x51, 0x60, 0x70, 0x71, 0x72, 0x73,
      0x74, 0x75, 0x80] →
    ((List.range 256).filter (fun n => BitVec.ofNat 8 n ∉ legal)).length = 242 ∧
    (∀ (s : State) op rest, s.fault = none → s.refused = none →
      s.stream.drop s.k = op :: rest → op ∉ legal →
        step s = .refused (.illegalOpcode { s with refused := some ⟨.illegalOpcode, s.k⟩ }) ∧
        ∀ bytes, step (present bytes { s with refused := some ⟨.illegalOpcode, s.k⟩ }) = .refused
          (.illegalOpcode (present bytes { s with refused := some ⟨.illegalOpcode, s.k⟩ }))) ∧
    (∀ op rest, op ∈ legal → decode (op :: rest) ≠ .refuse .illegalOpcode)

/-- R71: a stream that ends inside a command with a legal opcode is refused as Truncated at the
position of the opcode byte and nothing of the command is executed; no other stream is. -/
def Obligations.TruncatedCommandsAreRefused : Prop :=
  ∀ (s : State), s.fault = none → s.refused = none →
    ((s.stream.drop s.k = [0x40] ∨ s.stream.drop s.k = [0x80] ∨
      (∃ nh, s.stream.drop s.k = [0x80, nh]) ∨ s.stream.drop s.k = [0x60] ∨
      (∃ n operands, s.stream.drop s.k = 0x60 :: n :: operands ∧ operands.length < n.toNat + 1)) →
        step s = .refused (.truncated { s with refused := some ⟨.truncated, s.k⟩ })) ∧
    (∀ t, step s = .refused (.truncated t) →
      s.stream.drop s.k = [0x40] ∨ s.stream.drop s.k = [0x80] ∨
      (∃ nh, s.stream.drop s.k = [0x80, nh]) ∨ s.stream.drop s.k = [0x60] ∨
      (∃ n operands, s.stream.drop s.k = 0x60 :: n :: operands ∧ operands.length < n.toNat + 1))

/-- R165: a refusal leaves the refusal mark and nothing else; whatever is presented next, the block
takes no further step and the mark stays. -/
def Obligations.RefusalIsMarkedAndSticky : Prop :=
  ∀ (s : State) r, s.fault = none → s.refused = none → step s = .refused r →
    ∃ reason, refusalState r = some { s with refused := some ⟨reason, s.k⟩ } ∧
      ∀ bytes, step (present bytes { s with refused := some ⟨reason, s.k⟩ }) =
        .refused (refusalOf reason (present bytes { s with refused := some ⟨reason, s.k⟩ }))

/-- R166: the checks in their order: the opcode byte, then the operand bytes, then the command's own
precondition; a command that passes all three completes with one response. -/
def Obligations.ChecksHaveTheirPriority : Prop :=
  ∀ (s : State) op rest, s.fault = none → s.refused = none → s.stream.drop s.k = op :: rest →
    (lookupRow op = none → ∃ t, step s = .refused (.illegalOpcode t)) ∧
    (∀ row, lookupRow op = some row →
      ((∀ n, commandLength row.format (op :: rest) = some n → rest.length + 1 < n) →
        ∃ t, step s = .refused (.truncated t)) ∧
      (∀ n i, commandLength row.format (op :: rest) = some n → n ≤ rest.length + 1 →
        i = instrOf row.op (op :: rest) →
        (∀ r, preconditionFault i s = some r → ∃ t, step s = .fault (faultOf r t)) ∧
        (preconditionFault i s = none →
          ∃ t r, step s = .next t ∧ t.fault = none ∧ t.refused = none ∧
            t.responses = s.responses ++ [r])))

/-- R24, R25: both marks are none at power-on; each names one of its two reasons; while one is set the
block takes no step and the state stays as it is; a step that ends normally sets and leaves none. -/
def Obligations.MarkedBlockTakesNoStep : Prop :=
  State.reset.fault = none ∧ State.reset.refused = none ∧
  (∀ (s : State) m, s.fault = some m →
    step s = .fault (faultOf m.reason s) ∧
    (m.reason = .notInitialised ∨ m.reason = .readUnconfigured)) ∧
  (∀ (s : State) m, s.fault = none → s.refused = some m →
    step s = .refused (refusalOf m.reason s) ∧
    (m.reason = .illegalOpcode ∨ m.reason = .truncated)) ∧
  (∀ (s t : State), step s = .next t → marked s = false ∧ marked t = false)

/-! ### Every step -/

/-- A step at a command runs exec of it and moves the position past its bytes, in the next state and in
the state a fault leaves (R8, R32; for a fault the move is log 5); no command is ever refused by exec. -/
def Obligations.StepRunsTheDecodedCommand : Prop :=
  ∀ (s : State) i rest, s.fault = none → s.refused = none →
    decode (s.stream.drop s.k) = .command i rest →
    (∀ t, exec i s = .next t → step s = .next { t with k := t.k + instrLength i }) ∧
    (∀ t, exec i s = .fault (.notInitialised t) →
      step s = .fault (.notInitialised { t with k := t.k + instrLength i })) ∧
    (∀ t, exec i s = .fault (.readUnconfigured t) →
      step s = .fault (.readUnconfigured { t with k := t.k + instrLength i })) ∧
    (∀ r, exec i s ≠ .refused r)

/-- R27: every command that completes appends exactly one response, of the kind its mnemonic has; a
command that faults appends none. -/
def Obligations.EachCommandHasItsResponseKind : Prop :=
  (∀ i (s t : State), exec i s = .next t → ∃ r, t.responses = s.responses ++ [r] ∧
    (i = .init ∨ i = .start ∨ i = .stop ∨ (∃ p, i = .lineLow p ∨ i = .lineRelease p) ∨
      (∃ n, i = .delay n) → r = .none) ∧
    ((∃ d, i = .write d) ∨ (∃ data c, i = .crcchk data c) → ∃ m, r = .mask m) ∧
    ((∃ a, i = .read a) → ∃ b, r = .byte b) ∧
    ((∃ p, i = .lineRead p) → ∃ v, r = .level v)) ∧
  (∀ i (s : State) f, exec i s = .fault f → (faultState f).responses = s.responses) ∧
  State.reset.responses = []

/-- The history is append-only, whatever a step ends in, and a completed command leaves no trace of
itself but its events, its response, `drv`, the position and the answers it used (R20, R47, R49). That
nothing happens at the end of the stream is the model's choice (log 6). -/
def Obligations.StepsOnlyAppendToTheHistory : Prop :=
  ∀ (s t : State), stateAfter (step s) = some t →
    (∃ es, t.trace = s.trace ++ es) ∧ (∃ rs, t.responses = s.responses ++ rs ∧ rs.length ≤ 1) ∧
    (∃ n, t.answers = s.answers.drop n) ∧ s.k ≤ t.k ∧
    t.stream = s.stream ∧ t.params = s.params ∧
    (fetch s = .nothing → marked s = false → t = s)

/-- A line that has left Unconfigured never returns to it, whatever a step ends in (R21). -/
def Obligations.ConfiguredLinesStayConfigured : Prop :=
  ∀ (s t : State) p, stateAfter (step s) = some t → driver p s ≠ .unconfigured →
    driver p t ≠ .unconfigured

/-- The trace accounts for the drivers at power-on (R26, R35). -/
def Obligations.TraceConsistentAtPowerOn : Prop := TraceConsistent State.reset

/-- Every step keeps: replaying the trace from power-on gives `drv`, and every sample in the trace is
one of a configured line, 0 where the block drove it low (R21, R22, R26, R83). -/
def Obligations.StepKeepsTraceConsistent : Prop :=
  ∀ (s t : State), TraceConsistent s → stateAfter (step s) = some t → TraceConsistent t

/-- The bookkeeping is in order at power-on. -/
def Obligations.BookkeepingInOrderAtPowerOn : Prop := BookkeepingInOrder State.reset

/-- Every step keeps the bookkeeping in order: the position within the stream, at most one mark, each
naming its byte, every mask response 0x00, 0x01 or 0x04 (R24, R25, R29, R32; the place of the position
after a fault is log 5). -/
def Obligations.StepKeepsBookkeepingInOrder : Prop :=
  ∀ (s t : State), BookkeepingInOrder s → stateAfter (step s) = some t → BookkeepingInOrder t

/-- The host may present further commands at any time between commands: what a step does with the
command at hand does not depend on what follows it (R14, R51, R68; `present` is log 1). -/
def Obligations.LaterBytesDoNotChangeACommand : Prop :=
  ∀ (s t : State) bytes, fetch s ≠ .nothing →
    (step s = .next t → step (present bytes s) = .next (present bytes t)) ∧
    (∀ f, step s = .fault f → s.fault = none →
      ∃ g, step (present bytes s) = .fault g ∧ faultState g = present bytes (faultState f))

/-! ### What commands have in common -/

/-- No sampled value shortens, lengthens or reorders the events of a command, nor changes where the
lines end: two blocks that agree on the drivers and the parameters, whatever their histories and their
environments, emit events of the same shape (R109). -/
def Obligations.SampledValuesNeverSteerTheLines : Prop :=
  ∀ i (s u t w : State), linesOf s = linesOf u → s.params = u.params →
    exec i s = .next t → exec i u = .next w →
    linesOf t = linesOf w ∧
    ∀ es fs, t.trace = s.trace ++ es → w.trace = u.trace ++ fs →
      es.map eventShape = fs.map eventShape

/-- The drivers after each engine command, whatever they were before and whatever was sampled (the
table of R110, which the spec derives). -/
def Obligations.EngineCommandsFixTheDrivers : Prop :=
  ∀ (s t : State),
    (exec .init s = .next t → linesOf t = ⟨.released, .released⟩) ∧
    (exec .start s = .next t → linesOf t = ⟨.drivenLow, .drivenLow⟩) ∧
    (exec .stop s = .next t → linesOf t = ⟨.released, .released⟩) ∧
    (∀ d, exec (.write d) s = .next t → linesOf t = ⟨.released, .drivenLow⟩) ∧
    (∀ a, exec (.read a) s = .next t → linesOf t = ⟨.released, .drivenLow⟩)

/-- Event counts, samples of SDA, clock pulses and delay totals of the engine commands at the parameter
values of R10 (the table of R111, which the spec derives). -/
def Obligations.EngineCommandTotals : Prop :=
  ∀ (s t : State) i es, s.params = specParams ∨ s.params = { specParams with startPrerelease := false } →
    exec i s = .next t → t.trace = s.trace ++ es →
    (i = .init → es.length = 2 ∧ sampleCount .sda es = 0 ∧ delayTotal es = 0) ∧
    (i = .start → es.length = (if s.params.startPrerelease then 6 else 4) ∧
      sampleCount .sda es = 0 ∧ delayTotal es = 20) ∧
    (i = .stop → es.length = 6 ∧ sampleCount .sda es = 0 ∧ delayTotal es = 20 ∧
      clockRises (linesOf s) es = 1) ∧
    (∀ d, i = .write d → es.length = 54 ∧ sampleCount .sda es = 1 ∧ delayTotal es = 77 ∧
      (s.drvScl = .drivenLow → clockRises (linesOf s) es = 9)) ∧
    (∀ a, i = .read a → es.length = 56 ∧ sampleCount .sda es = 8 ∧ delayTotal es = 66 ∧
      (s.drvScl = .drivenLow → clockRises (linesOf s) es = 9))

/-- No engine command ever samples SCL, so none waits for a slave that holds it low (R113, which the
spec derives). -/
def Obligations.EngineNeverSamplesScl : Prop :=
  ∀ (s t : State) i es,
    (i = .init ∨ i = .start ∨ i = .stop ∨ (∃ d, i = .write d) ∨ (∃ a, i = .read a)) →
    exec i s = .next t → t.trace = s.trace ++ es → sampleCount .scl es = 0

/-! ### The wire, in the reading of R112 (general knowledge in the spec, log 8) -/

/-- R112 (a), (b), (c), which the spec derives: START makes one start condition, STOP one stop
condition, WRITE and READ neither, from the driver states named there. -/
def Obligations.CommandsMakeTheirWireConditions : Prop :=
  ∀ (s t : State) i es, exec i s = .next t → t.trace = s.trace ++ es →
    (i = .start → s.params.startPrerelease = true →
      linesOf s ∈ [⟨.released, .released⟩, ⟨.released, .drivenLow⟩, ⟨.drivenLow, .drivenLow⟩] →
      startConditions (linesOf s) es = 1 ∧ stopConditions (linesOf s) es = 0) ∧
    (i = .stop →
      linesOf s ∈ [⟨.released, .drivenLow⟩, ⟨.drivenLow, .drivenLow⟩, ⟨.drivenLow, .released⟩] →
      startConditions (linesOf s) es = 0 ∧ stopConditions (linesOf s) es = 1) ∧
    ((∃ d, i = .write d) ∨ (∃ a, i = .read a) →
      linesOf s ∈ [⟨.released, .drivenLow⟩, ⟨.drivenLow, .drivenLow⟩] →
      startConditions (linesOf s) es = 0 ∧ stopConditions (linesOf s) es = 0)

/-- R112 (d), which the spec derives: from the idle bus, START, then any WRITEs, READs and repeated
STARTs, then STOP completes, shows one start condition per START and exactly one stop condition, and
leaves the bus idle. -/
def Obligations.TransactionFramesTheWire : Prop :=
  ∀ (s : State) body, linesOf s = ⟨.released, .released⟩ → s.params.startPrerelease = true →
    body.all isTransferCommand = true →
    ∃ t es, runCommands (.start :: (body ++ [.stop])) s = .next t ∧ t.trace = s.trace ++ es ∧
      startConditions (linesOf s) es = 1 + body.count .start ∧
      stopConditions (linesOf s) es = 1 ∧ linesOf t = ⟨.released, .released⟩

/-! ### The CRC -/

/-- R140: `crc8` at the parameters of R10 is the algorithm as R140 writes it on naturals; the empty
sequence gives 0x00; the order of truncation and XOR does not matter. -/
def Obligations.CrcIsTheSpecAlgorithm : Prop :=
  (∀ data : List Byte, (crc8 specParams data).toNat = crc8Nat (data.map BitVec.toNat)) ∧
  crc8 specParams [] = 0x00 ∧
  (∀ acc : Nat, trunc8 ((acc <<< 1) ^^^ 0x31) = trunc8 (acc <<< 1) ^^^ 0x31)

/-- R144, which the spec derives: (a) the right checksum validates, (b) any other is reported, (c) no
two one-byte data share a CRC and every byte is one, (d) data with its CRC appended leaves 0. -/
def Obligations.ChecksumProperties : Prop :=
  (∀ (s : State) data, ∃ t, exec (.crcchk data (crc8 s.params data)) s = .next t ∧
    t.responses = s.responses ++ [.mask 0x00]) ∧
  (∀ (s : State) data c, c ≠ crc8 s.params data → ∃ t, exec (.crcchk data c) s = .next t ∧
    t.responses = s.responses ++ [.mask 0x04]) ∧
  (∀ b : Byte, ∃! d : Byte, crc8 specParams [d] = b) ∧
  (∀ c : Params, c.crcInit = 0x00 → ∀ data, crc8 c (data ++ [crc8 c data]) = 0x00)

/-- Two data sequences that differ in exactly one byte never have the same CRC (from the algorithm of
42_crc8 section 1; the spec itself says so of one-byte data only). -/
def Obligations.OneCorruptedByteIsDetected : Prop :=
  ∀ (before after : List Byte) (d e : Byte), d ≠ e →
    crc8 specParams (before ++ d :: after) ≠ crc8 specParams (before ++ e :: after)

/-! ### Encoding -/

/-- Words written out from the opcode map and the operand rules decode to their commands (R62 to R69). -/
def Obligations.WrittenWordsDecode : Prop :=
  decode [0x10] = .command .init [] ∧ decode [0x20] = .command .start [] ∧
  decode [0x30] = .command .stop [] ∧ decode [0x40, 0x10] = .command (.write 0x10) [] ∧
  decode [0x51, 0x10] = .command (.read .noAck) [0x10] ∧
  decode [0x60, 0x02, 0x66, 0x4C, 0x4F] = .command (.crcchk [0x66, 0x4C] 0x4F) [] ∧
  decode [0x71] = .command (.lineLow .scl) [] ∧ decode [0x72] = .command (.lineRelease .sda) [] ∧
  decode [0x75] = .command (.lineRead .scl) [] ∧
  decode [0x80, 0x03, 0xE8] = .command (.delay 1000) []

/-- Decoding the bytes of any well-formed command, whatever follows them, gives the command back. -/
def Obligations.DecodeOfEncode : Prop :=
  ∀ i rest, wellFormed i = true → decode (encode i ++ rest) = .command i rest

/-- Encoding a decoded command gives its bytes back exactly, and only well-formed commands are decoded
(R73, which the spec derives). -/
def Obligations.EncodeOfDecode : Prop :=
  ∀ bytes i rest, decode bytes = .command i rest →
    wellFormed i = true ∧ bytes = encode i ++ rest ∧ bytes.length = instrLength i + rest.length

/-- The decoder is total on programs: a list of commands that consumes every byte, or the longest legal
prefix and a refusal that names its byte position (R73, which the spec derives). -/
def Obligations.ProgramDecodingIsTotal : Prop :=
  ∀ bytes is r, decodeProgram bytes = (is, r) →
    ∃ rest, bytes = encodeProgram is ++ rest ∧ (∀ i ∈ is, wellFormed i = true) ∧
      (r = none → rest = []) ∧
      (∀ reason pos, r = some (reason, pos) →
        pos = (encodeProgram is).length ∧ decode rest = .refuse reason)

/-- Running the block on any stream is executing the commands its decoding lists, in order: if they all
complete, the run ends normally when the decoding consumed every byte (R193) and in the refusal of the
decoding, with its position, otherwise; if one faults, the run ends in that fault. -/
def Obligations.RunFollowsTheDecodedProgram : Prop :=
  ∀ (s : State) is r, s.fault = none → s.refused = none → s.k ≤ s.stream.length →
    decodeProgram (s.stream.drop s.k) = (is, r) →
    (∀ t, runCommands is s = .next t →
      Sys2Proof.core.run is.length s = .next t ∧
      (r = none → endedNormally t = true) ∧
      (∀ reason pos, r = some (reason, pos) →
        Sys2Proof.core.run (is.length + 1) s = .refused
          (refusalOf reason { t with refused := some ⟨reason, s.k + pos⟩ }))) ∧
    (∀ f, runCommands is s = .fault f → Sys2Proof.core.run is.length s = .fault f)

/-- Each of the ten rows of the first table of 30_encoding section 5, its operands in range, encodes as
the row says, each pseudo-instruction of the second table as its expansion, and an operand out of its
range is an error. The lines are taken as read; their text is in AssemblyTextReadsAsItsLines. -/
def Obligations.AssemblyLinesEncodeAsTheTable : Prop :=
  (assemble .init).map encode = some [0x10] ∧
  (assemble .start).map encode = some [0x20] ∧
  (assemble .stop).map encode = some [0x30] ∧
  (assemble (.read .ack)).map encode = some [0x50] ∧
  (assemble (.read .noAck)).map encode = some [0x51] ∧
  (assemble (.lineLow .sda)).map encode = some [0x70] ∧
  (assemble (.lineLow .scl)).map encode = some [0x71] ∧
  (assemble (.lineRelease .sda)).map encode = some [0x72] ∧
  (assemble (.lineRelease .scl)).map encode = some [0x73] ∧
  (assemble (.lineRead .sda)).map encode = some [0x74] ∧
  (assemble (.lineRead .scl)).map encode = some [0x75] ∧
  (∀ d, d ≤ 255 → (assemble (.write d)).map encode = some [0x40, BitVec.ofNat 8 d]) ∧
  (∀ d, 255 < d → assemble (.write d) = none) ∧
  (∀ n, n ≤ 65535 → (assemble (.delay n)).map encode =
    some [0x80, BitVec.ofNat 8 (n / 256), BitVec.ofNat 8 n]) ∧
  (∀ n, 65535 < n → assemble (.delay n) = none) ∧
  (∀ (data : List Nat) c, data.length ≤ 255 → (∀ b ∈ data, b ≤ 255) → c ≤ 255 →
    (assemble (.crcchk data c)).map encode = some (0x60 :: BitVec.ofNat 8 data.length ::
      (data.map (BitVec.ofNat 8) ++ [BitVec.ofNat 8 c]))) ∧
  (∀ (data : List Nat) c, 255 < data.length ∨ (∃ b ∈ data, 255 < b) ∨ 255 < c →
    assemble (.crcchk data c) = none) ∧
  assemble .rstart = assemble .start ∧
  (∀ a, a ≤ 127 → (assemble (.addrw a)).map encode = some [0x40, BitVec.ofNat 8 (2 * a)] ∧
    (assemble (.addrr a)).map encode = some [0x40, BitVec.ofNat 8 (2 * a + 1)]) ∧
  (∀ a, 127 < a → assemble (.addrw a) = none ∧ assemble (.addrr a) = none) ∧
  (∀ m, m ≤ 65 → assemble (.delayMs m) = assemble (.delay (1000 * m))) ∧
  (∀ m, 65 < m → assemble (.delayMs m) = none)

/-- The text of the assembler (R74, R75): one command per line and an empty line none, `;` starting a
comment, numbers in decimal or with prefix 0x, operands separated by commas; each row of the two tables
as it is written is the line of AssemblyLinesEncodeAsTheTable. What R74 leaves open of the text form
(blanks, empty lines, the case of letters, an error in one of several lines) is the model's choice
(log 9). -/
def Obligations.AssemblyTextReadsAsItsLines : Prop :=
  (∀ line rest, '\n' ∉ line → assembleText (line ++ '\n' :: rest) =
    (assembleLine line).bind (fun is => (assembleText rest).map (fun js => is ++ js))) ∧
  (∀ line, '\n' ∉ line → assembleText line = assembleLine line) ∧
  assembleLine [] = some [] ∧
  (∀ line comment, assembleLine (line ++ ';' :: comment) = assembleLine line) ∧
  (∀ n, number (Nat.toDigits 10 n) = some n) ∧
  (∀ n, number ('0' :: 'x' :: Nat.toDigits 16 n) = some n) ∧
  assembleLine ['I', 'N', 'I', 'T'] = some [.init] ∧
  assembleLine ['S', 'T', 'A', 'R', 'T'] = some [.start] ∧
  assembleLine ['S', 'T', 'O', 'P'] = some [.stop] ∧
  assembleLine ['R', 'S', 'T', 'A', 'R', 'T'] = some [.start] ∧
  assembleLine ['R', 'E', 'A', 'D', ' ', 'A', 'C', 'K'] = some [.read .ack] ∧
  assembleLine ['R', 'E', 'A', 'D', ' ', 'N', 'A', 'C', 'K'] = some [.read .noAck] ∧
  (∀ p name, (p, name) ∈ [(Line.sda, ['S', 'D', 'A']), (Line.scl, ['S', 'C', 'L'])] →
    assembleLine (['L', 'I', 'N', 'E', '_', 'L', 'O', 'W', ' '] ++ name) = some [.lineLow p] ∧
    assembleLine (['L', 'I', 'N', 'E', '_', 'R', 'E', 'L', 'E', 'A', 'S', 'E', ' '] ++ name) =
      some [.lineRelease p] ∧
    assembleLine (['L', 'I', 'N', 'E', '_', 'R', 'E', 'A', 'D', ' '] ++ name) =
      some [.lineRead p]) ∧
  (∀ w n, number w = some n →
    assembleLine (['W', 'R', 'I', 'T', 'E', ' '] ++ w) = (assemble (.write n)).map ([·]) ∧
    assembleLine (['D', 'E', 'L', 'A', 'Y', ' '] ++ w) = (assemble (.delay n)).map ([·]) ∧
    assembleLine (['A', 'D', 'D', 'R', 'W', ' '] ++ w) = (assemble (.addrw n)).map ([·]) ∧
    assembleLine (['A', 'D', 'D', 'R', 'R', ' '] ++ w) = (assemble (.addrr n)).map ([·]) ∧
    assembleLine (['D', 'E', 'L', 'A', 'Y', '_', 'M', 'S', ' '] ++ w) =
      (assemble (.delayMs n)).map ([·])) ∧
  (∀ ws (data : List Nat) w c, ws.map number = data.map some → number w = some c →
    assembleLine (['C', 'R', 'C', 'C', 'H', 'K', ' ', '['] ++
      (List.intercalate [',', ' '] ws ++ ([']', ',', ' '] ++ w))) =
      (assemble (.crcchk data c)).map ([·]))
end

