-- ==== Sys2Proof/Laws/Assembler.lean ====
section
/-! SUPPORT. What the operations of the assembler can do: the range checks, the tokens of a word, and
the lines of a text. -/

namespace Sys2Proof.Laws

open Sys2Proof.Machine

/-- An operand passes the range check exactly when it is within the bound, unchanged. -/
theorem inRange_eq_some {bound n m : Nat} : inRange bound n = some m ↔ n ≤ bound ∧ m = n := by
  unfold inRange; split <;> simp_all [eq_comm]

/-- An operand is refused exactly when it is above the bound. -/
theorem inRange_eq_none {bound n : Nat} : inRange bound n = none ↔ bound < n := by
  unfold inRange; split <;> simp_all

/-- A number is a byte exactly when it is at most 255. -/
theorem asmByte_eq_some {n : Nat} {b : Byte} :
    asmByte n = some b ↔ n ≤ 255 ∧ b = BitVec.ofNat 8 n := by
  unfold asmByte inRange; split <;> simp_all [eq_comm]

theorem asmByte_eq_none {n : Nat} : asmByte n = none ↔ 255 < n := by
  unfold asmByte inRange; split <;> simp_all

/-- The characters that end a word: the blanks, the marks and the comment sign. -/
def wordEnds : List Char := [';', ' ', '\t', '\r', ',', '[', ']']

/-- Characters that end no word are gathered into the current word. -/
theorem tokenize_word {w : List Char} (h : ∀ c ∈ w, c ∉ wordEnds) (acc cs : List Char) :
    tokenize acc (w ++ cs) = tokenize (w.reverse ++ acc) cs := by
  induction w generalizing acc with
  | nil => rfl
  | cons c w ih =>
    have hc := h c (by simp)
    simp only [wordEnds, List.mem_cons, List.not_mem_nil, not_or, or_false] at hc
    rw [List.cons_append, tokenize]
    simp only [hc, if_false, or_self]
    rw [ih fun d hd => h d (by simp [hd])]
    simp

/-- A word gathered in reverse is the token of the word. -/
theorem flushWord_reverse {w : List Char} (h : w ≠ []) : flushWord w.reverse = [.word w] := by
  cases hr : w.reverse with
  | nil => simp_all
  | cons c cs => rw [flushWord, ← hr, List.reverse_reverse]

/-- A hexadecimal digit ends no word. -/
theorem hexDigit_word {c : Char} {v : Nat} (h : hexDigit c = some v) : c ∉ wordEnds := by
  intro hc
  simp only [wordEnds, List.mem_cons, List.not_mem_nil, or_false] at hc
  rcases hc with rfl | rfl | rfl | rfl | rfl | rfl | rfl <;> simp [hexDigit] at h

/-- Reading digits one part after the other. -/
theorem digits_append (base acc : Nat) (xs ys : List Char) :
    digits base acc (xs ++ ys) = (digits base acc xs).bind fun a => digits base a ys := by
  induction xs generalizing acc with
  | nil => rfl
  | cons c xs ih =>
    simp only [List.cons_append, digits]
    split
    · rfl
    · split
      · exact ih _
      · rfl

/-- A line end closes the current line. -/
theorem splitLines_line {l : List Char} (h : '\n' ∉ l) (acc rest : List Char) :
    splitLines acc (l ++ '\n' :: rest) = (acc.reverse ++ l) :: splitLines [] rest := by
  induction l generalizing acc with
  | nil => simp [splitLines]
  | cons c l ih =>
    simp only [List.mem_cons, not_or] at h
    rw [List.cons_append, splitLines, if_neg fun e => h.1 e.symm, ih h.2]
    simp

/-- A text without a line end is one line. -/
theorem splitLines_last {l : List Char} (h : '\n' ∉ l) (acc : List Char) :
    splitLines acc l = [acc.reverse ++ l] := by
  induction l generalizing acc with
  | nil => simp [splitLines]
  | cons c l ih =>
    simp only [List.mem_cons, not_or] at h
    rw [splitLines, if_neg fun e => h.1 e.symm, ih h.2]
    simp

end Sys2Proof.Laws
end

