-- ==== Sys2Proof/Laws/Decode.lean ====
section
/-! SUPPORT. Small lemmas of the decoder: the row each opcode byte selects and what decoding a row
gives. -/

namespace Sys2Proof.Laws

open Sys2Proof.Machine

@[simp] theorem byteAt_zero (b : Byte) (bs : List Byte) : byteAt (b :: bs) 0 = b := rfl

@[simp] theorem byteAt_succ (b : Byte) (bs : List Byte) (n : Nat) :
    byteAt (b :: bs) (n + 1) = byteAt bs n := rfl

/-- No byte selects two rows of the opcode map (30_encoding R69). -/
theorem opcodeMap_disjoint (op : Byte) :
    (opcodeMap.filter (fun row => row.selects op)).length ≤ 1 := by
  revert op
  decide

@[simp] theorem decode_nil : decode [] = .nothing := rfl

theorem decode_illegal {op : Byte} (h : lookupRow op = none) (rest : List Byte) :
    decode (op :: rest) = .refuse .illegalOpcode := by
  simp [decode, h]

theorem decode_legal {op : Byte} {row : OpcodeRow} (h : lookupRow op = some row)
    (rest : List Byte) : decode (op :: rest) = decodeRow row (op :: rest) := by
  simp [decode, h]

/-- A row of a fixed length decodes when that many bytes stand there. -/
theorem decodeRow_of_length {row : OpcodeRow} {bytes : List Byte} {n : Nat}
    (h : commandLength row.format bytes = some n) (hn : n ≤ bytes.length) :
    decodeRow row bytes = .command (instrOf row.op bytes) (bytes.drop n) := by
  simp [decodeRow, h, hn]

/-- High byte first: a count is its two bytes (30_encoding R66). -/
theorem countOfBytes_high_low (n : Count) : countOfBytes (countHigh n) (countLow n) = n := by
  apply BitVec.eq_of_toNat_eq
  have h := n.isLt
  simp only [countOfBytes, countHigh, countLow, BitVec.toNat_ofNat, BitVec.extractLsb'_toNat]
  rw [Nat.shiftRight_eq_div_pow, Nat.shiftRight_eq_div_pow]
  omega

end Sys2Proof.Laws
end

