-- ==== Sys2Proof/Laws/State.lean ====
section
/-! SUPPORT. One lemma per field of State per update, so that no later proof unfolds an update. -/

namespace Sys2Proof.Laws

open Sys2Proof.Machine

/-! ### emit -/

@[simp] theorem emit_drvSda (e : Event) (s : State) : (emit e s).drvSda = s.drvSda := rfl
@[simp] theorem emit_drvScl (e : Event) (s : State) : (emit e s).drvScl = s.drvScl := rfl
@[simp] theorem emit_fault (e : Event) (s : State) : (emit e s).fault = s.fault := rfl
@[simp] theorem emit_refused (e : Event) (s : State) : (emit e s).refused = s.refused := rfl
@[simp] theorem emit_trace (e : Event) (s : State) : (emit e s).trace = s.trace ++ [e] := rfl
@[simp] theorem emit_responses (e : Event) (s : State) : (emit e s).responses = s.responses := rfl
@[simp] theorem emit_k (e : Event) (s : State) : (emit e s).k = s.k := rfl
@[simp] theorem emit_stream (e : Event) (s : State) : (emit e s).stream = s.stream := rfl
@[simp] theorem emit_answers (e : Event) (s : State) : (emit e s).answers = s.answers := rfl
@[simp] theorem emit_params (e : Event) (s : State) : (emit e s).params = s.params := rfl

/-! ### takeAnswer -/

@[simp] theorem takeAnswer_drvSda (s : State) : (takeAnswer s).drvSda = s.drvSda := rfl
@[simp] theorem takeAnswer_drvScl (s : State) : (takeAnswer s).drvScl = s.drvScl := rfl
@[simp] theorem takeAnswer_fault (s : State) : (takeAnswer s).fault = s.fault := rfl
@[simp] theorem takeAnswer_refused (s : State) : (takeAnswer s).refused = s.refused := rfl
@[simp] theorem takeAnswer_trace (s : State) : (takeAnswer s).trace = s.trace := rfl
@[simp] theorem takeAnswer_responses (s : State) : (takeAnswer s).responses = s.responses := rfl
@[simp] theorem takeAnswer_k (s : State) : (takeAnswer s).k = s.k := rfl
@[simp] theorem takeAnswer_stream (s : State) : (takeAnswer s).stream = s.stream := rfl
@[simp] theorem takeAnswer_answers (s : State) : (takeAnswer s).answers = s.answers.tail := rfl
@[simp] theorem takeAnswer_params (s : State) : (takeAnswer s).params = s.params := rfl

/-! ### respond -/

@[simp] theorem respond_drvSda (r : Response) (s : State) : (respond r s).drvSda = s.drvSda := rfl
@[simp] theorem respond_drvScl (r : Response) (s : State) : (respond r s).drvScl = s.drvScl := rfl
@[simp] theorem respond_fault (r : Response) (s : State) : (respond r s).fault = s.fault := rfl
@[simp] theorem respond_refused (r : Response) (s : State) : (respond r s).refused = s.refused := rfl
@[simp] theorem respond_trace (r : Response) (s : State) : (respond r s).trace = s.trace := rfl
@[simp] theorem respond_responses (r : Response) (s : State) : (respond r s).responses = s.responses ++ [r] := rfl
@[simp] theorem respond_k (r : Response) (s : State) : (respond r s).k = s.k := rfl
@[simp] theorem respond_stream (r : Response) (s : State) : (respond r s).stream = s.stream := rfl
@[simp] theorem respond_answers (r : Response) (s : State) : (respond r s).answers = s.answers := rfl
@[simp] theorem respond_params (r : Response) (s : State) : (respond r s).params = s.params := rfl

/-! ### markFault -/

@[simp] theorem markFault_drvSda (r : FaultReason) (s : State) : (markFault r s).drvSda = s.drvSda := rfl
@[simp] theorem markFault_drvScl (r : FaultReason) (s : State) : (markFault r s).drvScl = s.drvScl := rfl
@[simp] theorem markFault_fault (r : FaultReason) (s : State) : (markFault r s).fault = some ⟨r, s.k⟩ := rfl
@[simp] theorem markFault_refused (r : FaultReason) (s : State) : (markFault r s).refused = s.refused := rfl
@[simp] theorem markFault_trace (r : FaultReason) (s : State) : (markFault r s).trace = s.trace := rfl
@[simp] theorem markFault_responses (r : FaultReason) (s : State) : (markFault r s).responses = s.responses := rfl
@[simp] theorem markFault_k (r : FaultReason) (s : State) : (markFault r s).k = s.k := rfl
@[simp] theorem markFault_stream (r : FaultReason) (s : State) : (markFault r s).stream = s.stream := rfl
@[simp] theorem markFault_answers (r : FaultReason) (s : State) : (markFault r s).answers = s.answers := rfl
@[simp] theorem markFault_params (r : FaultReason) (s : State) : (markFault r s).params = s.params := rfl

/-! ### markRefused -/

@[simp] theorem markRefused_drvSda (r : RefusalReason) (s : State) : (markRefused r s).drvSda = s.drvSda := rfl
@[simp] theorem markRefused_drvScl (r : RefusalReason) (s : State) : (markRefused r s).drvScl = s.drvScl := rfl
@[simp] theorem markRefused_fault (r : RefusalReason) (s : State) : (markRefused r s).fault = s.fault := rfl
@[simp] theorem markRefused_refused (r : RefusalReason) (s : State) : (markRefused r s).refused = some ⟨r, s.k⟩ := rfl
@[simp] theorem markRefused_trace (r : RefusalReason) (s : State) : (markRefused r s).trace = s.trace := rfl
@[simp] theorem markRefused_responses (r : RefusalReason) (s : State) : (markRefused r s).responses = s.responses := rfl
@[simp] theorem markRefused_k (r : RefusalReason) (s : State) : (markRefused r s).k = s.k := rfl
@[simp] theorem markRefused_stream (r : RefusalReason) (s : State) : (markRefused r s).stream = s.stream := rfl
@[simp] theorem markRefused_answers (r : RefusalReason) (s : State) : (markRefused r s).answers = s.answers := rfl
@[simp] theorem markRefused_params (r : RefusalReason) (s : State) : (markRefused r s).params = s.params := rfl

/-! ### advance -/

@[simp] theorem advance_drvSda (n : Nat) (s : State) : (advance n s).drvSda = s.drvSda := rfl
@[simp] theorem advance_drvScl (n : Nat) (s : State) : (advance n s).drvScl = s.drvScl := rfl
@[simp] theorem advance_fault (n : Nat) (s : State) : (advance n s).fault = s.fault := rfl
@[simp] theorem advance_refused (n : Nat) (s : State) : (advance n s).refused = s.refused := rfl
@[simp] theorem advance_trace (n : Nat) (s : State) : (advance n s).trace = s.trace := rfl
@[simp] theorem advance_responses (n : Nat) (s : State) : (advance n s).responses = s.responses := rfl
@[simp] theorem advance_k (n : Nat) (s : State) : (advance n s).k = s.k + n := rfl
@[simp] theorem advance_stream (n : Nat) (s : State) : (advance n s).stream = s.stream := rfl
@[simp] theorem advance_answers (n : Nat) (s : State) : (advance n s).answers = s.answers := rfl
@[simp] theorem advance_params (n : Nat) (s : State) : (advance n s).params = s.params := rfl

/-! ### present -/

@[simp] theorem present_drvSda (bs : List Byte) (s : State) : (present bs s).drvSda = s.drvSda := rfl
@[simp] theorem present_drvScl (bs : List Byte) (s : State) : (present bs s).drvScl = s.drvScl := rfl
@[simp] theorem present_fault (bs : List Byte) (s : State) : (present bs s).fault = s.fault := rfl
@[simp] theorem present_refused (bs : List Byte) (s : State) : (present bs s).refused = s.refused := rfl
@[simp] theorem present_trace (bs : List Byte) (s : State) : (present bs s).trace = s.trace := rfl
@[simp] theorem present_responses (bs : List Byte) (s : State) : (present bs s).responses = s.responses := rfl
@[simp] theorem present_k (bs : List Byte) (s : State) : (present bs s).k = s.k := rfl
@[simp] theorem present_stream (bs : List Byte) (s : State) : (present bs s).stream = s.stream ++ bs := rfl
@[simp] theorem present_answers (bs : List Byte) (s : State) : (present bs s).answers = s.answers := rfl
@[simp] theorem present_params (bs : List Byte) (s : State) : (present bs s).params = s.params := rfl

/-! ### loadAtPosition -/

@[simp] theorem loadAtPosition_drvSda (bs : List Byte) (s : State) : (loadAtPosition bs s).drvSda = s.drvSda := rfl
@[simp] theorem loadAtPosition_drvScl (bs : List Byte) (s : State) : (loadAtPosition bs s).drvScl = s.drvScl := rfl
@[simp] theorem loadAtPosition_fault (bs : List Byte) (s : State) : (loadAtPosition bs s).fault = s.fault := rfl
@[simp] theorem loadAtPosition_refused (bs : List Byte) (s : State) : (loadAtPosition bs s).refused = s.refused := rfl
@[simp] theorem loadAtPosition_trace (bs : List Byte) (s : State) : (loadAtPosition bs s).trace = s.trace := rfl
@[simp] theorem loadAtPosition_responses (bs : List Byte) (s : State) : (loadAtPosition bs s).responses = s.responses := rfl
@[simp] theorem loadAtPosition_k (bs : List Byte) (s : State) : (loadAtPosition bs s).k = s.k := rfl
@[simp] theorem loadAtPosition_stream (bs : List Byte) (s : State) : (loadAtPosition bs s).stream = overwriteAt s.k bs s.stream := rfl
@[simp] theorem loadAtPosition_answers (bs : List Byte) (s : State) : (loadAtPosition bs s).answers = s.answers := rfl
@[simp] theorem loadAtPosition_params (bs : List Byte) (s : State) : (loadAtPosition bs s).params = s.params := rfl

/-! ### delay -/

@[simp] theorem delay_drvSda (n : Nat) (s : State) : (delay n s).drvSda = s.drvSda := rfl
@[simp] theorem delay_drvScl (n : Nat) (s : State) : (delay n s).drvScl = s.drvScl := rfl
@[simp] theorem delay_fault (n : Nat) (s : State) : (delay n s).fault = s.fault := rfl
@[simp] theorem delay_refused (n : Nat) (s : State) : (delay n s).refused = s.refused := rfl
@[simp] theorem delay_trace (n : Nat) (s : State) : (delay n s).trace = s.trace ++ [.delay n] := rfl
@[simp] theorem delay_responses (n : Nat) (s : State) : (delay n s).responses = s.responses := rfl
@[simp] theorem delay_k (n : Nat) (s : State) : (delay n s).k = s.k := rfl
@[simp] theorem delay_stream (n : Nat) (s : State) : (delay n s).stream = s.stream := rfl
@[simp] theorem delay_answers (n : Nat) (s : State) : (delay n s).answers = s.answers := rfl
@[simp] theorem delay_params (n : Nat) (s : State) : (delay n s).params = s.params := rfl

/-! ### driveLow -/

@[simp] theorem driveLow_sda_drvSda (s : State) : (driveLow .sda s).drvSda = .drivenLow := rfl
@[simp] theorem driveLow_sda_drvScl (s : State) : (driveLow .sda s).drvScl = s.drvScl := rfl
@[simp] theorem driveLow_scl_drvSda (s : State) : (driveLow .scl s).drvSda = s.drvSda := rfl
@[simp] theorem driveLow_scl_drvScl (s : State) : (driveLow .scl s).drvScl = .drivenLow := rfl
@[simp] theorem driveLow_fault (p : Line) (s : State) : (driveLow p s).fault = s.fault := by
  cases p <;> rfl
@[simp] theorem driveLow_refused (p : Line) (s : State) : (driveLow p s).refused = s.refused := by
  cases p <;> rfl
@[simp] theorem driveLow_trace (p : Line) (s : State) : (driveLow p s).trace = s.trace ++ [.drive p] := by
  cases p <;> rfl
@[simp] theorem driveLow_responses (p : Line) (s : State) : (driveLow p s).responses = s.responses := by
  cases p <;> rfl
@[simp] theorem driveLow_k (p : Line) (s : State) : (driveLow p s).k = s.k := by
  cases p <;> rfl
@[simp] theorem driveLow_stream (p : Line) (s : State) : (driveLow p s).stream = s.stream := by
  cases p <;> rfl
@[simp] theorem driveLow_answers (p : Line) (s : State) : (driveLow p s).answers = s.answers := by
  cases p <;> rfl
@[simp] theorem driveLow_params (p : Line) (s : State) : (driveLow p s).params = s.params := by
  cases p <;> rfl

/-! ### release -/

@[simp] theorem release_sda_drvSda (s : State) : (release .sda s).drvSda = .released := rfl
@[simp] theorem release_sda_drvScl (s : State) : (release .sda s).drvScl = s.drvScl := rfl
@[simp] theorem release_scl_drvSda (s : State) : (release .scl s).drvSda = s.drvSda := rfl
@[simp] theorem release_scl_drvScl (s : State) : (release .scl s).drvScl = .released := rfl
@[simp] theorem release_fault (p : Line) (s : State) : (release p s).fault = s.fault := by
  cases p <;> rfl
@[simp] theorem release_refused (p : Line) (s : State) : (release p s).refused = s.refused := by
  cases p <;> rfl
@[simp] theorem release_trace (p : Line) (s : State) : (release p s).trace = s.trace ++ [.release p] := by
  cases p <;> rfl
@[simp] theorem release_responses (p : Line) (s : State) : (release p s).responses = s.responses := by
  cases p <;> rfl
@[simp] theorem release_k (p : Line) (s : State) : (release p s).k = s.k := by
  cases p <;> rfl
@[simp] theorem release_stream (p : Line) (s : State) : (release p s).stream = s.stream := by
  cases p <;> rfl
@[simp] theorem release_answers (p : Line) (s : State) : (release p s).answers = s.answers := by
  cases p <;> rfl
@[simp] theorem release_params (p : Line) (s : State) : (release p s).params = s.params := by
  cases p <;> rfl

/-! ### setDriver -/

@[simp] theorem setDriver_sda_drvSda (v : Drive) (s : State) : (setDriver .sda v s).drvSda = v := rfl
@[simp] theorem setDriver_sda_drvScl (v : Drive) (s : State) : (setDriver .sda v s).drvScl = s.drvScl := rfl
@[simp] theorem setDriver_scl_drvSda (v : Drive) (s : State) : (setDriver .scl v s).drvSda = s.drvSda := rfl
@[simp] theorem setDriver_scl_drvScl (v : Drive) (s : State) : (setDriver .scl v s).drvScl = v := rfl
@[simp] theorem setDriver_fault (p : Line) (v : Drive) (s : State) : (setDriver p v s).fault = s.fault := by
  cases p <;> rfl
@[simp] theorem setDriver_refused (p : Line) (v : Drive) (s : State) : (setDriver p v s).refused = s.refused := by
  cases p <;> rfl
@[simp] theorem setDriver_trace (p : Line) (v : Drive) (s : State) : (setDriver p v s).trace = s.trace := by
  cases p <;> rfl
@[simp] theorem setDriver_responses (p : Line) (v : Drive) (s : State) : (setDriver p v s).responses = s.responses := by
  cases p <;> rfl
@[simp] theorem setDriver_k (p : Line) (v : Drive) (s : State) : (setDriver p v s).k = s.k := by
  cases p <;> rfl
@[simp] theorem setDriver_stream (p : Line) (v : Drive) (s : State) : (setDriver p v s).stream = s.stream := by
  cases p <;> rfl
@[simp] theorem setDriver_answers (p : Line) (v : Drive) (s : State) : (setDriver p v s).answers = s.answers := by
  cases p <;> rfl
@[simp] theorem setDriver_params (p : Line) (v : Drive) (s : State) : (setDriver p v s).params = s.params := by
  cases p <;> rfl

/-! ### Reading a driver -/

@[simp] theorem driver_sda (s : State) : driver .sda s = s.drvSda := rfl
@[simp] theorem driver_scl (s : State) : driver .scl s = s.drvScl := rfl

end Sys2Proof.Laws
end

