-- ==== Sys2Proof/Laws/Ops.lean ====
section
/-! SUPPORT. For each shared operation, one lemma that says everything it can do; proofs cite these
instead of unfolding the operation. -/

namespace Sys2Proof.Laws

open Sys2Proof.Machine

theorem driveLow_driver_self (p : Line) (s : State) : driver p (driveLow p s) = .drivenLow := by
  cases p <;> rfl

theorem release_driver_self (p : Line) (s : State) : driver p (release p s) = .released := by
  cases p <;> rfl

theorem driveLow_driver_other {p q : Line} (h : q ≠ p) (s : State) :
    driver q (driveLow p s) = driver q s := by
  cases p <;> cases q <;> first | exact absurd rfl h | rfl

theorem release_driver_other {p q : Line} (h : q ≠ p) (s : State) :
    driver q (release p s) = driver q s := by
  cases p <;> cases q <;> first | exact absurd rfl h | rfl

/-- A sample of a line the block drives low reads 0 and asks nobody. -/
theorem sample_of_drivenLow {p : Line} {s : State} (h : driver p s = .drivenLow) :
    sample p s = (false, emit (.sample p false) s) := by
  simp [sample, padLow, h]

/-- A sample of a line the block does not drive low is the draw, and uses one answer. -/
theorem sample_of_not_drivenLow {p : Line} {s : State} (h : driver p s ≠ .drivenLow) :
    sample p s = (draw p s, emit (.sample p (draw p s)) (takeAnswer s)) := by
  have hp : padLow p s = false := beq_eq_false_iff_ne.mpr h
  simp [sample, lineLevel, hp]

/-- Everything a guarded command can do. -/
theorem guarded_cases (ok : Bool) (r : FaultReason) (body : State → State) (s : State) :
    (ok = true ∧ guarded ok r body s = .next (body s)) ∨
    (ok = false ∧ guarded ok r body s = .fault (faultOf r (markFault r s))) := by
  cases ok <;> simp [guarded, raiseFault]

@[simp] theorem guarded_true (r : FaultReason) (body : State → State) (s : State) :
    guarded true r body s = .next (body s) := rfl

@[simp] theorem guarded_false (r : FaultReason) (body : State → State) (s : State) :
    guarded false r body s = .fault (faultOf r (markFault r s)) := rfl

@[simp] theorem faultState_faultOf (r : FaultReason) (s : State) :
    faultState (faultOf r s) = s := by
  cases r <;> rfl

@[simp] theorem refusalState_refusalOf (r : RefusalReason) (s : State) :
    refusalState (refusalOf r s) = some s := by
  cases r <;> rfl

@[simp] theorem advanceFault_faultOf (n : Nat) (r : FaultReason) (s : State) :
    advanceFault n (faultOf r s) = faultOf r (advance n s) := by
  cases r <;> rfl

@[simp] theorem afterExec_next (i : Instr) (s : State) :
    afterExec i (.next s) = .next (advance (instrLength i) s) := rfl

@[simp] theorem afterExec_fault (i : Instr) (f : Fault) :
    afterExec i (.fault f) = .fault (advanceFault (instrLength i) f) := rfl

theorem bothConfigured_iff (s : State) :
    bothConfigured s = true ↔ s.drvSda ≠ .unconfigured ∧ s.drvScl ≠ .unconfigured := by
  simp [bothConfigured, configured]

theorem configured_iff (p : Line) (s : State) :
    configured p s = true ↔ driver p s ≠ .unconfigured := by
  simp [configured]

/-- One data bit of WRITE, whole: six events, SDA as the bit says, SCL low. -/
theorem writeBit_eq (s : State) (b : Bit) :
    writeBit s b =
      { s with
        drvSda := if b then .released else .drivenLow
        drvScl := .drivenLow
        trace := s.trace ++ writeBitEvents s.params b } := by
  cases b <;> simp [writeBit, putSda, delay, driveLow, release, emit, setDriver, writeBitEvents,
    sdaAction]

/-- One data bit of READ with SDA released, whole: the sample is a draw after the rising SCL and the
two holds. -/
theorem readBit_eq (s : State) (h : s.drvSda = .released) :
    readBit s =
      (draw .sda { s with trace := s.trace ++ readBitEventsBefore s.params },
       { s with
         drvScl := .drivenLow
         trace := s.trace ++ readBitEvents s.params
           (draw .sda { s with trace := s.trace ++ readBitEventsBefore s.params })
         answers := s.answers.tail }) := by
  have hd : driver .sda (delay s.params.tRdHigh (delay s.params.tRdSu (release .scl s)))
      ≠ .drivenLow := by simp [h]
  unfold readBit
  rw [sample_of_not_drivenLow hd]
  simp [takeAnswer, delay, driveLow, release, emit, setDriver, readBitEventsBefore, readBitEvents,
    draw]

/-- Everything a step can do on a block without marks. -/
theorem step_of_unmarked {s : State} (hf : s.fault = none) (hr : s.refused = none) :
    step s = match fetch s with
      | .nothing => .next s
      | .refuse r => .refused (refusalOf r (markRefused r s))
      | .command i _ => afterExec i (exec i s) := by
  unfold step
  rw [hf, hr]
  rfl

/-- A block with a fault mark answers the fault again. -/
theorem step_of_fault {s : State} {m : FaultMark} (h : s.fault = some m) :
    step s = .fault (faultOf m.reason s) := by
  unfold step
  rw [h]

/-- A block with a refusal mark answers the refusal again. -/
theorem step_of_refused {s : State} {m : RefusalMark} (hf : s.fault = none)
    (h : s.refused = some m) : step s = .refused (refusalOf m.reason s) := by
  unfold step
  rw [hf, h]

/-- Zero steps of a run. -/
theorem run_zero (s : State) : Sys2Proof.core.run 0 s = .next s := rfl

/-- A run's first step, then the rest of the run, or the stop. -/
theorem run_succ (n : Nat) (s : State) :
    Sys2Proof.core.run (n + 1) s = match step s with
      | .next t => Sys2Proof.core.run n t
      | .fault f => .fault f
      | .refused r => .refused r := by
  cases h : step s with
  | next t =>
    have hc : Sys2Proof.core.step s = .next t := h
    simp only [Host.Core.run, hc]
  | fault f =>
    have hc : Sys2Proof.core.step s = .fault f := h
    simp only [Host.Core.run, hc]
  | refused r =>
    have hc : Sys2Proof.core.step s = .refused r := h
    simp only [Host.Core.run, hc]

end Sys2Proof.Laws
end

