-- ==== Sys2Proof/Laws/PerInstr.lean ====
section
/-! SUPPORT. The family EncodeLength: the bytes of a command are as many as its length says
(30_encoding R62, R68), at least one and at most the longest command. -/

namespace Sys2Proof.Laws.EncodeLength

/-- The encoding of a well-formed command has the command's length. -/
def Statement (i : Instr) : Prop :=
  wellFormed i = true →
    (encode i).length = instrLength i ∧ 1 ≤ instrLength i ∧ instrLength i ≤ longestCommand

theorem init : Statement .init := by
  simp [Statement, encode, instrLength, longestCommand, maxCrcData]

theorem start : Statement .start := by
  simp [Statement, encode, instrLength, longestCommand, maxCrcData]

theorem stop : Statement .stop := by
  simp [Statement, encode, instrLength, longestCommand, maxCrcData]

theorem write (d : Byte) : Statement (.write d) := by
  simp [Statement, encode, instrLength, longestCommand, maxCrcData]

theorem read (a : Ack) : Statement (.read a) := by
  simp [Statement, encode, instrLength, longestCommand, maxCrcData]

theorem crcchk (data : List Byte) (c : Byte) : Statement (.crcchk data c) := by
  intro h
  have hlen : data.length ≤ 255 := of_decide_eq_true h
  refine ⟨by simp [encode, instrLength], by simp [instrLength], ?_⟩
  simp only [instrLength, longestCommand, maxCrcData]
  omega

theorem lineLow (p : Line) : Statement (.lineLow p) := by
  simp [Statement, encode, instrLength, longestCommand, maxCrcData]

theorem lineRelease (p : Line) : Statement (.lineRelease p) := by
  simp [Statement, encode, instrLength, longestCommand, maxCrcData]

theorem lineRead (p : Line) : Statement (.lineRead p) := by
  simp [Statement, encode, instrLength, longestCommand, maxCrcData]

theorem delay (n : Count) : Statement (.delay n) := by
  simp [Statement, encode, instrLength, longestCommand, maxCrcData]

end Sys2Proof.Laws.EncodeLength
end

