-- ==== Sys2Proof/Tests/Slice0.lean ====
section
/-! SUPPORT. Tests of single steps against spec/95_test_vectors.md (the vector's name stands in the
comment) and, for every statement with hypotheses, a concrete state that meets them. -/

namespace Sys2Proof.Tests

open Sys2Proof.Machine

/-- A block with the given driver states and environment answers, at the start of a stream. -/
def block (sda scl : Drive) (answers : List Bit) (stream : List Byte) : State :=
  { State.reset with drvSda := sda, drvScl := scl, answers := answers, stream := stream }

/-- Both lines released. -/
def blockRR (answers : List Bit) : State := block .released .released answers []

/-- As after WRITE or READ: SDA released, SCL low. -/
def blockRL (answers : List Bit) : State := block .released .drivenLow answers []

/-- As after START: both lines low. -/
def blockLL (answers : List Bit) : State := block .drivenLow .drivenLow answers []

/-- START_PRERELEASE false. -/
def literalStart (s : State) : State :=
  { s with params := { s.params with startPrerelease := false } }

/-- The next state, if the outcome is one. -/
def next? (o : Host.Outcome State Fault Refusal) : Option State :=
  match o with
  | .next s => some s
  | .fault _ => none
  | .refused _ => none

/-- The fault, if the outcome is one. -/
def fault? (o : Host.Outcome State Fault Refusal) : Option Fault :=
  match o with
  | .next _ => none
  | .fault f => some f
  | .refused _ => none

/-- The refusal, if the outcome is one. -/
def refused? (o : Host.Outcome State Fault Refusal) : Option Refusal :=
  match o with
  | .next _ => none
  | .fault _ => none
  | .refused r => some r

/-- The events a command adds to an empty trace. -/
def eventsOf (i : Instr) (s : State) : Option (List Event) := (next? (exec i s)).map State.trace

/-- The responses a command adds to an empty list. -/
def responsesOf (i : Instr) (s : State) : Option (List Response) :=
  (next? (exec i s)).map State.responses

/-- The driver states a command leaves. -/
def linesLeft (i : Instr) (s : State) : Option Lines := (next? (exec i s)).map linesOf

/-! ### WellFormed -/

theorem test_wellFormed_refuses_256_bytes :
    wellFormed (.crcchk (List.replicate 256 0) 0) = false := by decide +kernel

theorem test_wellFormed_admits_255_bytes :
    wellFormed (.crcchk (List.replicate 255 0) 0) = true := by decide +kernel

/-! ### Decoder: words written out from 30_encoding R69 -/

theorem test_decode_init : decode [0x10] = .command .init [] := by decide
theorem test_decode_start : decode [0x20] = .command .start [] := by decide
theorem test_decode_stop : decode [0x30] = .command .stop [] := by decide
/-- V-E5. -/
theorem test_decode_write : decode [0x40, 0xFF] = .command (.write 0xFF) [] := by decide
/-- V-E2. -/
theorem test_decode_read_ack : decode [0x50] = .command (.read .ack) [] := by decide
/-- V-E1. -/
theorem test_decode_read_nack : decode [0x51] = .command (.read .noAck) [] := by decide
/-- V-E6. -/
theorem test_decode_crcchk_empty : decode [0x60, 0x00, 0x00] = .command (.crcchk [] 0x00) [] := by
  decide
theorem test_decode_crcchk_two :
    decode [0x60, 0x02, 0x66, 0x4C, 0x4F, 0x30] = .command (.crcchk [0x66, 0x4C] 0x4F) [0x30] := by
  decide
theorem test_decode_line_low : decode [0x70] = .command (.lineLow .sda) [] ∧
    decode [0x71] = .command (.lineLow .scl) [] := by decide
theorem test_decode_line_release : decode [0x72] = .command (.lineRelease .sda) [] ∧
    decode [0x73] = .command (.lineRelease .scl) [] := by decide
theorem test_decode_line_read : decode [0x74] = .command (.lineRead .sda) [] ∧
    decode [0x75] = .command (.lineRead .scl) [] := by decide
/-- V-E8. -/
theorem test_decode_delay_1000 : decode [0x80, 0x03, 0xE8] = .command (.delay 1000) [] := by decide
/-- V-E9. -/
theorem test_decode_delay_65535 : decode [0x80, 0xFF, 0xFF] = .command (.delay 65535) [] := by
  decide
/-- V-E3, V-E10, V-E11, V-E12. -/
theorem test_decode_illegal : ∀ op ∈ ([0x52, 0x76, 0x78, 0x00, 0xFF, 0x11, 0x90] : List Byte),
    decode [op] = .refuse .illegalOpcode := by decide
/-- V-E4, V-E7. -/
theorem test_decode_truncated : decode [0x40] = .refuse .truncated ∧
    decode [0x60, 0x02, 0x66, 0x4C] = .refuse .truncated := by decide
/-- V-E15. -/
theorem test_decode_operand_is_data : decode [0x40, 0x10] = .command (.write 0x10) [] := by decide
/-- V-E13. -/
theorem test_decodeProgram_three :
    decodeProgram [0x10, 0x20, 0x30] = ([.init, .start, .stop], none) := by decide
/-- V-E14. -/
theorem test_decodeProgram_stops :
    decodeProgram [0x10, 0x52, 0x30] = ([.init], some (.illegalOpcode, 1)) := by decide
/-- P3's last bytes, and the position of a refusal after a command of five bytes. -/
theorem test_decodeProgram_position :
    decodeProgram [0x60, 0x02, 0x66, 0x4C, 0x4F, 0x40] =
      ([.crcchk [0x66, 0x4C] 0x4F], some (.truncated, 5)) := by decide

theorem test_encode_read_and_delay :
    encode (.read .noAck) = [0x51] ∧ encode (.delay 1000) = [0x80, 0x03, 0xE8] := by decide
theorem test_encode_crcchk : encode (.crcchk [0xDC] 0x79) = [0x60, 0x01, 0xDC, 0x79] := by decide
theorem test_encode_lines : encode (.lineLow .scl) = [0x71] ∧ encode (.lineRelease .scl) = [0x73] ∧
    encode (.lineRead .scl) = [0x75] := by decide

theorem test_tableWord_write : decodeTableWord 16 0x8040 = some (.write 0x80) := by decide +kernel
theorem test_tableWord_read : decodeTableWord 8 0x51 = some (.read .noAck) := by decide +kernel
theorem test_tableWord_crcchk : decodeTableWord 8 0x60 = some (.crcchk [] 0) := by decide +kernel
theorem test_tableWord_delay : decodeTableWord 24 0xE80380 = some (.delay 1000) := by
  decide +kernel
theorem test_tableWord_illegal : decodeTableWord 8 0x76 = none := by decide +kernel

theorem test_withFetchWord_init : ((next? (step (State.reset.withFetchWord 8 0x10))).map State.trace)
    = some [.release .sda, .release .scl] := by decide +kernel

/-! ### Commands -/

/-- V-I1. -/
theorem test_init_events : eventsOf .init State.reset = some [.release .sda, .release .scl] := by
  decide
/-- V-I2. -/
theorem test_init_lines : linesLeft .init (blockLL []) = some ⟨.released, .released⟩ := by decide
/-- V-S2. -/
theorem test_start_repeated : eventsOf .start (blockRL []) = some [.release .sda, .release .scl,
    .drive .sda, .delay 10, .drive .scl, .delay 10] := by decide
/-- V-S3. -/
theorem test_start_literal : eventsOf .start (literalStart (blockRL [])) =
    some [.drive .sda, .delay 10, .drive .scl, .delay 10] := by decide
/-- V-P1. -/
theorem test_stop_events : eventsOf .stop (blockRL []) = some [.drive .sda, .drive .scl,
    .release .scl, .delay 10, .release .sda, .delay 10] := by decide
/-- V-P3. -/
theorem test_stop_faults : fault? (exec .stop (block .unconfigured .released [] [])) =
    some (.notInitialised { block .unconfigured .released [] [] with
      fault := some ⟨.notInitialised, 0⟩ }) := by decide
/-- V-W1: the first twelve and the last six of its 54 events. -/
theorem test_write_0x80 : (eventsOf (.write 0x80) (blockLL [false])).map
      (fun es => (es.length, es.take 12, es.drop 48)) =
    some (54, [.release .sda, .delay 1, .release .scl, .delay 5, .drive .scl, .delay 1,
        .drive .sda, .delay 1, .release .scl, .delay 5, .drive .scl, .delay 1],
      [.release .sda, .release .scl, .delay 1, .sample .sda false, .drive .scl, .delay 20]) := by
  decide
/-- V-W4. -/
theorem test_write_0xFF_absent : responsesOf (.write 0xFF) (blockLL [true]) = some [.mask 0x01] ∧
    linesLeft (.write 0xFF) (blockLL [true]) = some ⟨.released, .drivenLow⟩ := by decide
/-- V-R2. -/
theorem test_read_nack_0x62 :
    responsesOf (.read .noAck) (blockRL [false, true, true, false, false, false, true, false]) =
      some [.byte 0x62] ∧
    (eventsOf (.read .noAck) (blockRL [false, true, true, false, false, false, true, false])).map
      (fun es => (es.length, es.drop 49)) = some (56, [.release .sda, .delay 1, .release .scl,
        .delay 5, .drive .scl, .release .sda, .delay 20]) := by decide
/-- V-R1 (the acknowledge drives SDA low), V-R5. -/
theorem test_read_ack_and_last_bit :
    (eventsOf (.read .ack) (blockRL [true, true, true, true, true, true, true, true])).map
      (fun es => es[49]?) = some (some (.drive .sda)) ∧
    responsesOf (.read .noAck) (blockRL [false, false, false, false, false, false, false, true]) =
      some [.byte 0x01] := by decide
/-- V-C3. -/
theorem test_crcchk_good : responsesOf (.crcchk [0xDC] 0x79) State.reset = some [.mask 0x00] ∧
    eventsOf (.crcchk [0xDC] 0x79) State.reset = some [] := by decide
/-- V-C7. -/
theorem test_crcchk_flipped : ∀ c ∈ ([0x78, 0x7B, 0x7D, 0x71, 0x69, 0x59, 0x39, 0xF9] : List Byte),
    responsesOf (.crcchk [0xDC] c) State.reset = some [.mask 0x04] := by decide +kernel
/-- V-C4, V-C5, V-C6, V-C8, V-C9, V-C11. -/
theorem test_crc8_vectors : crc8 Config.specParams [0x68, 0x3A] = 0x7C ∧
    crc8 Config.specParams [0x4E, 0x85] = 0x6B ∧ crc8 Config.specParams [0xFF, 0xFF] = 0x2D ∧
    crc8 Config.specParams [0x12, 0x34] = 0xB6 ∧
    crc8 Config.specParams [0x01, 0x02, 0x03] = 0xCC ∧
    crc8 Config.specParams [0, 1, 2, 3, 4, 5, 6, 7] = 0xAF := by decide +kernel
/-- V-L1, V-L7. -/
theorem test_lineLow_sda : linesLeft (.lineLow .sda) State.reset = some ⟨.drivenLow, .unconfigured⟩ ∧
    eventsOf (.lineLow .sda) (blockLL []) = some [.drive .sda] := by decide
/-- V-L2. -/
theorem test_lineRelease_scl :
    linesLeft (.lineRelease .scl) State.reset = some ⟨.unconfigured, .released⟩ := by decide
/-- V-L4, V-L5, V-L6. -/
theorem test_lineRead_levels : responsesOf (.lineRead .sda) (blockRR [true]) = some [.level true] ∧
    responsesOf (.lineRead .sda) (blockRR [false]) = some [.level false] ∧
    responsesOf (.lineRead .scl) (blockRL [true]) = some [.level false] := by decide
/-- V-L6: the environment is not asked, so its answer is still there. -/
theorem test_lineRead_driven_asks_nobody :
    (next? (exec (.lineRead .scl) (blockRL [true]))).map State.answers = some [true] := by decide
/-- V-L8, V-L9. -/
theorem test_delay_bounds : eventsOf (.delay 0) (blockRR []) = some [.delay 0] ∧
    eventsOf (.delay 65535) State.reset = some [.delay 65535] := by decide

/-! ### Steps (P6) -/

/-- `40 80` at power-on. -/
theorem test_step_write_faults :
    (fault? (step (present [0x40, 0x80] State.reset))).map (fun f =>
      ((faultState f).fault, (faultState f).trace, (faultState f).responses, (faultState f).k)) =
    some (some ⟨.notInitialised, 0⟩, [], [], 2) := by decide
/-- `74` at power-on. -/
theorem test_step_lineRead_faults :
    (fault? (step (present [0x74] State.reset))).map (fun f => (faultState f).fault) =
    some (some ⟨.readUnconfigured, 0⟩) := by decide
/-- `10 52 30`, its second step. -/
theorem test_step_illegal_at_1 :
    (refused? (step { block .released .released [] [0x10, 0x52, 0x30] with k := 1 })).map
      (fun r => (refusalState r).map State.refused) =
    some (some (some ⟨.illegalOpcode, 1⟩)) := by decide
/-- `10 20 40`, its third step. -/
theorem test_step_truncated_at_2 :
    (refused? (step { block .drivenLow .drivenLow [] [0x10, 0x20, 0x40] with k := 2 })).map
      (fun r => (refusalState r).map State.refused) =
    some (some (some ⟨.truncated, 2⟩)) := by decide
/-- `60 00 00 10` at power-on, its first step. -/
theorem test_step_crcchk_before_init :
    (next? (step (present [0x60, 0x00, 0x00, 0x10] State.reset))).map
      (fun s => (s.responses, s.k)) = some ([.mask 0x00], 3) := by decide
/-- A step on a marked block answers the same fault again. -/
theorem test_step_marked_again :
    fault? (step { State.reset with fault := some ⟨.notInitialised, 0⟩, stream := [0x10] }) =
      some (.notInitialised
        { State.reset with fault := some ⟨.notInitialised, 0⟩, stream := [0x10] }) := by decide
/-- The end of a stream: nothing happens and the run has ended normally. -/
theorem test_step_end : next? (step State.reset) = some State.reset ∧
    endedNormally State.reset = true := by decide

/-! ### The wire (41_bus_engine R112; 70_reset_and_hazards R184, R185) -/

theorem test_wire_stop_from_idle :
    startConditions ⟨.released, .released⟩ (stopEvents Config.specParams) = 1 := by decide
theorem test_wire_init_after_start :
    stopConditions ⟨.drivenLow, .drivenLow⟩ initEvents = 0 ∧
    stopConditions ⟨.drivenLow, .released⟩ initEvents = 1 := by decide

/-! ### Assembler (30_encoding R74, R75) -/

/-- `WRITE 0x80 ; data` -/
theorem test_asm_write : assembleText ['W', 'R', 'I', 'T', 'E', ' ', '0', 'x', '8', '0', ' ', ';',
    ' ', 'd', 'a', 't', 'a'] = some [.write 0x80] := by decide
/-- `CRCCHK [1, 0xDC], 121` -/
theorem test_asm_crcchk : assembleText ['C', 'R', 'C', 'C', 'H', 'K', ' ', '[', '1', ',', ' ', '0',
    'x', 'D', 'C', ']', ',', ' ', '1', '2', '1'] = some [.crcchk [1, 0xDC] 121] := by decide
/-- `READ NACK` and `STOP` on two lines, an empty line between. -/
theorem test_asm_two_lines : assembleText ['R', 'E', 'A', 'D', ' ', 'N', 'A', 'C', 'K', '\n', '\n',
    'S', 'T', 'O', 'P'] = some [.read .noAck, .stop] := by decide
/-- `WRITE 256`: out of range. -/
theorem test_asm_out_of_range :
    assembleText ['W', 'R', 'I', 'T', 'E', ' ', '2', '5', '6'] = none := by decide
theorem test_asm_pseudo : assemble (.addrw 0x40) = some (.write 0x80) ∧
    assemble (.addrr 0x40) = some (.write 0x81) ∧
    assemble (.delayMs 15) = some (.delay 15000) ∧ assemble .rstart = some .start := by decide

/-! ### Witnesses: for each statement with hypotheses, values that meet them together -/

/-- One line unconfigured, the boundary of the precondition of the bus commands. -/
def blockUR : State := block .unconfigured .released [] []

/-- A block at power-on with these bytes presented. -/
def withStream (bytes : List Byte) : State := present bytes State.reset

theorem witness_SampleReadsTheLine :
    driver .sda (blockRR [true]) = .released ∧ (blockRR []).answers = [] ∧
    driver .scl (blockRL []) = .drivenLow ∧ driver .sda State.reset = .unconfigured ∧
    (stateAfter (exec (.write 0) State.reset)).isSome ∧
    (stateAfter (exec (.read .ack) State.reset)).isSome ∧
    (stateAfter (exec (.lineRead .sda) State.reset)).isSome := by decide

theorem witness_StartDrivesSdaThenScl :
    State.reset.params.startPrerelease = true ∧
    (literalStart (blockRL [])).params.startPrerelease = false ∧
    (literalStart (blockRL [])).drvSda ≠ .unconfigured ∧
    (literalStart (blockRL [])).drvScl ≠ .unconfigured ∧
    (literalStart blockUR).params.startPrerelease = false ∧
    (literalStart blockUR).drvSda = .unconfigured := by decide

/-- For StopReleasesSclThenSda, WriteSendsTheByteAndSamplesTheAck, ReadAssemblesEightSamples and
BusCommandsNeedConfiguredLines: both lines configured, and just one unconfigured. -/
theorem witness_BusCommandsNeedConfiguredLines :
    (blockRL []).drvSda ≠ .unconfigured ∧ (blockRL []).drvScl ≠ .unconfigured ∧
    blockUR.drvSda = .unconfigured ∧ blockUR.drvScl ≠ .unconfigured ∧
    (literalStart blockUR).params.startPrerelease = false ∧
    State.reset.params.startPrerelease = true := by decide

theorem witness_CrcchkComparesTheChecksum :
    (List.replicate 255 (0 : Byte)).length ≤ 255 ∧ ([] : List Byte).length ≤ 255 := by decide +kernel

theorem witness_LineReadRespondsTheLevel :
    driver .sda (blockRL []) = .released ∧ driver .scl (blockRL []) = .drivenLow ∧
    driver .sda blockUR = .unconfigured := by decide

theorem witness_FaultIsMarkedAndSticky :
    (withStream [0x30]).fault = none ∧ (withStream [0x30]).refused = none ∧
    fetch (withStream [0x30]) = .command .stop [] ∧ (withStream [0x30]).drvSda = .unconfigured ∧
    fetch (withStream [0x74]) = .command (.lineRead .sda) [] ∧
    driver .sda (withStream [0x74]) = .unconfigured ∧
    (fault? (step (withStream [0x74]))).isSome := by decide

theorem witness_IllegalOpcodesAreRefused :
    (withStream [0x52]).fault = none ∧ (withStream [0x52]).refused = none ∧
    (withStream [0x52]).stream.drop (withStream [0x52]).k = [0x52] ∧
    (0x52 : Byte) ∉ ([0x10, 0x20, 0x30, 0x40, 0x50, 0x51, 0x60, 0x70, 0x71, 0x72, 0x73, 0x74, 0x75,
      0x80] : List Byte) ∧
    (0x75 : Byte) ∈ ([0x10, 0x20, 0x30, 0x40, 0x50, 0x51, 0x60, 0x70, 0x71, 0x72, 0x73, 0x74, 0x75,
      0x80] : List Byte) := by decide

theorem witness_TruncatedCommandsAreRefused :
    (withStream [0x40]).fault = none ∧ (withStream [0x40]).refused = none ∧
    remaining (withStream [0x40]) = [0x40] ∧ remaining (withStream [0x80]) = [0x80] ∧
    remaining (withStream [0x80, 0x03]) = [0x80, 0x03] ∧
    remaining (withStream [0x60]) = [0x60] ∧
    remaining (withStream [0x60, 0x00]) = 0x60 :: 0x00 :: [] ∧
    ([] : List Byte).length < (0x00 : Byte).toNat + 1 ∧
    (match refused? (step (withStream [0x60, 0x00])) with
      | some (.truncated _) => true
      | _ => false) = true := by decide

theorem witness_RefusalIsMarkedAndSticky :
    (withStream [0x40]).fault = none ∧ (withStream [0x40]).refused = none ∧
    (refused? (step (withStream [0x40]))).isSome := by decide

theorem witness_ChecksHaveTheirPriority :
    remaining (withStream [0x52, 0x00]) = [0x52, 0x00] ∧ lookupRow 0x52 = none ∧
    lookupRow 0x40 = some ⟨.write, 0x40, 0xFF, .fb⟩ ∧
    commandLength .fb [0x40] = some 2 ∧ commandLength .fb [0x40, 0x80] = some 2 ∧
    lookupRow 0x60 = some ⟨.crcchk, 0x60, 0xFF, .fv⟩ ∧ commandLength .fv [0x60] = none ∧
    instrOf .write [0x40, 0x80] = .write 0x80 ∧
    preconditionFault (.write 0x80) (withStream [0x40, 0x80]) = some .notInitialised ∧
    preconditionFault .init (withStream [0x10]) = none := by decide

theorem witness_MarkedBlockTakesNoStep :
    (markFault .notInitialised State.reset).fault = some ⟨.notInitialised, 0⟩ ∧
    (markRefused .truncated State.reset).fault = none ∧
    (markRefused .truncated State.reset).refused = some ⟨.truncated, 0⟩ ∧
    (next? (step (withStream [0x10]))).isSome := by decide

theorem witness_StepRunsTheDecodedCommand :
    (withStream [0x10]).fault = none ∧ (withStream [0x10]).refused = none ∧
    decode ((withStream [0x10]).stream.drop (withStream [0x10]).k) = .command .init [] ∧
    (next? (exec .init (withStream [0x10]))).isSome ∧
    decode ((withStream [0x30]).stream.drop (withStream [0x30]).k) = .command .stop [] ∧
    fault? (exec .stop (withStream [0x30])) =
      some (.notInitialised (markFault .notInitialised (withStream [0x30]))) ∧
    decode ((withStream [0x74]).stream.drop (withStream [0x74]).k) =
      .command (.lineRead .sda) [] ∧
    fault? (exec (.lineRead .sda) (withStream [0x74])) =
      some (.readUnconfigured (markFault .readUnconfigured (withStream [0x74]))) := by decide

theorem witness_EachCommandHasItsResponseKind :
    (next? (exec .init State.reset)).isSome ∧ (next? (exec (.write 0) (blockLL [true]))).isSome ∧
    (next? (exec (.read .ack) (blockRL (List.replicate 8 true)))).isSome ∧
    (next? (exec (.lineRead .scl) (blockRR [false]))).isSome ∧
    (next? (exec (.crcchk [] 0) State.reset)).isSome ∧
    (fault? (exec .stop State.reset)).isSome := by decide

/-- For StepsOnlyAppendToTheHistory, ConfiguredLinesStayConfigured, StepKeepsTraceConsistent and
StepKeepsBookkeepingInOrder: a step that completes, one that faults, one that is refused, and one at
the end of the stream, each from a state in order. -/
theorem witness_StepKeepsTheInvariants :
    (stateAfter (step (withStream [0x10]))).isSome ∧ (stateAfter (step (withStream [0x30]))).isSome ∧
    (stateAfter (step (withStream [0x52]))).isSome ∧ fetch State.reset = .nothing ∧
    marked State.reset = false ∧ (stateAfter (step State.reset)).isSome ∧
    TraceConsistent (withStream [0x10]) ∧ driver .sda blockUR = .unconfigured ∧
    driver .scl blockUR ≠ .unconfigured ∧ (stateAfter (step blockUR)).isSome := by decide

theorem witness_StepKeepsBookkeepingInOrder : BookkeepingInOrder (withStream [0x30]) := by
  refine ⟨by decide, by decide, by decide, ?_, ?_, ?_⟩
  · intro m h; cases h
  · intro m h; cases h
  · intro r h; cases h

theorem witness_LaterBytesDoNotChangeACommand :
    fetch (withStream [0x10]) ≠ .nothing ∧ (next? (step (withStream [0x10]))).isSome ∧
    fetch (withStream [0x30]) ≠ .nothing ∧ (fault? (step (withStream [0x30]))).isSome ∧
    (withStream [0x30]).fault = none := by decide

/-- Two blocks that differ only in what their environments answer. -/
theorem witness_SampledValuesNeverSteerTheLines :
    linesOf (blockLL [true]) = linesOf (blockLL [false]) ∧
    (blockLL [true]).params = (blockLL [false]).params ∧
    (next? (exec (.write 0xA5) (blockLL [true]))).map State.trace =
      some ([] ++ writeEvents Config.specParams 0xA5 true) ∧
    (next? (exec (.write 0xA5) (blockLL [false]))).map State.trace =
      some ([] ++ writeEvents Config.specParams 0xA5 false) := by decide

/-- For EngineCommandsFixTheDrivers, EngineCommandTotals, EngineNeverSamplesScl and
CommandsMakeTheirWireConditions: each engine command completes from a state those statements name. -/
theorem witness_EngineCommandsComplete :
    (blockRL []).params = Config.specParams ∧ (blockRL []).drvScl = .drivenLow ∧
    linesOf (blockRL []) = ⟨.released, .drivenLow⟩ ∧
    (next? (exec .init (blockRL []))).isSome ∧ (next? (exec .start (blockRL []))).isSome ∧
    (next? (exec .start (literalStart (blockRL [])))).isSome ∧
    (next? (exec .stop (blockRL []))).isSome ∧
    (next? (exec (.write 0) (blockRL [true]))).isSome ∧
    (next? (exec (.read .noAck) (blockRL (List.replicate 8 false)))).isSome ∧
    linesOf (blockRR []) = ⟨.released, .released⟩ ∧
    linesOf (block .drivenLow .released [] []) = ⟨.drivenLow, .released⟩ := by decide

theorem witness_TransactionFramesTheWire :
    linesOf (blockRR []) = ⟨.released, .released⟩ ∧
    (blockRR []).params.startPrerelease = true ∧
    ([.write 0x80, .start, .write 0x81, .read .noAck] : List Instr).all isTransferCommand = true := by
  decide

theorem witness_ChecksumProperties :
    (0x78 : Byte) ≠ crc8 State.reset.params [0xDC] ∧ Config.specParams.crcInit = 0x00 := by decide

theorem witness_OneCorruptedByteIsDetected : (0x80 : Byte) ≠ 0x81 := by decide

theorem witness_DecodeOfEncode : wellFormed (.crcchk (List.replicate 255 0xFF) 0x00) = true ∧
    decode [0x80, 0xFF, 0xFF, 0x10] = .command (.delay 65535) [0x10] := by decide +kernel

/-- For ProgramDecodingIsTotal and RunFollowsTheDecodedProgram: a program that ends normally, one that
is refused, one that faults. -/
theorem witness_RunFollowsTheDecodedProgram :
    (withStream [0x10, 0x20]).fault = none ∧ (withStream [0x10, 0x20]).refused = none ∧
    (withStream [0x10, 0x20]).k ≤ (withStream [0x10, 0x20]).stream.length ∧
    decodeProgram (remaining (withStream [0x10, 0x20])) = ([.init, .start], none) ∧
    (next? (runCommands [.init, .start] (withStream [0x10, 0x20]))).isSome ∧
    decodeProgram (remaining (withStream [0x10, 0x52])) = ([.init], some (.illegalOpcode, 1)) ∧
    (next? (runCommands [.init] (withStream [0x10, 0x52]))).isSome ∧
    decodeProgram (remaining (withStream [0x30])) = ([.stop], none) ∧
    (fault? (runCommands [.stop] (withStream [0x30]))).isSome := by decide

theorem witness_AssemblyLinesEncodeAsTheTable :
    255 ≤ 255 ∧ 255 < 256 ∧ 65535 ≤ 65535 ∧ 65535 < 65536 ∧ 127 ≤ 127 ∧ 127 < 128 ∧ 65 ≤ 65 ∧
    65 < 66 ∧ ([255] : List Nat).length ≤ 255 ∧ (∀ b ∈ ([255] : List Nat), b ≤ 255) ∧
    (∃ b ∈ ([256] : List Nat), 255 < b) ∧ 255 < (List.replicate 256 0).length := by
  decide +kernel

/-- Numerals in both bases, and CRCCHK lists of no byte and of two. -/
theorem witness_AssemblyTextReadsAsItsLines :
    '\n' ∉ ['I', 'N', 'I', 'T'] ∧ number ['2', '5', '5'] = some 255 ∧
    number ['0', 'x', 'f', 'F'] = some 255 ∧
    ([] : List (List Char)).map number = ([] : List Nat).map some ∧
    ([['7'], ['0', 'x', 'A']] : List (List Char)).map number = [7, 10].map some ∧
    (Line.scl, ['S', 'C', 'L']) ∈ [(Line.sda, ['S', 'D', 'A']), (Line.scl, ['S', 'C', 'L'])] := by
  decide

end Sys2Proof.Tests
end

/-! PROOFS. What a command can do, split once for all commands into its precondition, its effect on
the lines and its response (10_state R27, 60_exceptions R164), and the response list it leaves. -/

namespace Sys2Proof.Responses

open Sys2Proof.Machine Sys2Proof.Laws

/-! ### The parts of a command -/

/-- What a command that completes does before it responds: its line events. -/
def effect (i : Instr) (s : State) : State :=
  match i with
  | .init => release .scl (release .sda s)
  | .start => startSequence (if s.params.startPrerelease then startPrerelease s else s)
  | .stop => stopSequence s
  | .write d => (writeAck (writeBits d s)).2
  | .read a => readAck a (readBits (release .sda s)).2
  | .crcchk _ _ => s
  | .lineLow p => driveLow p s
  | .lineRelease p => release p s
  | .lineRead p => (sample p s).2
  | .delay n => delay n.toNat s

/-- The response a command gives when it completes. -/
def responseOf (i : Instr) (s : State) : Response :=
  match i with
  | .init | .start | .stop | .lineLow _ | .lineRelease _ | .delay _ => .none
  | .write d => .mask (writeMask (writeAck (writeBits d s)).1)
  | .read _ => .byte (readBits (release .sda s)).1
  | .crcchk data c => .mask (crcMask (crc8 s.params data) c)
  | .lineRead p => .level (sample p s).1

/-- A command without a precondition fault has its effect and responds. -/
theorem exec_of_no_preconditionFault {i : Instr} {s : State} (h : preconditionFault i s = none) :
    exec i s = .next (respond (responseOf i s) (effect i s)) := by
  cases i with
  | start =>
    cases hp : s.params.startPrerelease <;>
      simp_all [preconditionFault, exec, execStart, responseOf, effect]
  | stop | write | read =>
    have hc : bothConfigured s = true := by simpa [preconditionFault] using h
    simp only [exec, execStop, execWrite, execRead, hc, guarded_true]
    rfl
  | lineRead p =>
    have hc : configured p s = true := by simpa [preconditionFault] using h
    simp only [exec, execLineRead, hc, guarded_true]
    rfl
  | init | crcchk | lineLow | lineRelease | delay => rfl

/-- A command with a precondition fault sets the fault mark and does nothing else. -/
theorem exec_of_preconditionFault {i : Instr} {s : State} {r : FaultReason}
    (h : preconditionFault i s = some r) : exec i s = .fault (faultOf r (markFault r s)) := by
  cases i with
  | start =>
    obtain ⟨⟨hp, hc⟩, rfl⟩ :
        (s.params.startPrerelease = false ∧ bothConfigured s = false) ∧ .notInitialised = r := by
      simpa [preconditionFault] using h
    simp [exec, execStart, hp, hc]
  | stop | write | read =>
    obtain ⟨hc, rfl⟩ : bothConfigured s = false ∧ .notInitialised = r := by
      simpa [preconditionFault] using h
    simp [exec, execStop, execWrite, execRead, hc]
  | lineRead p =>
    obtain ⟨hc, rfl⟩ : configured p s = false ∧ .readUnconfigured = r := by
      simpa [preconditionFault] using h
    simp [exec, execLineRead, hc]
  | init | crcchk | lineLow | lineRelease | delay => simp [preconditionFault] at h

/-- Everything a command can do. -/
theorem exec_cases (i : Instr) (s : State) :
    (preconditionFault i s = none ∧ exec i s = .next (respond (responseOf i s) (effect i s))) ∨
    ∃ r, preconditionFault i s = some r ∧ exec i s = .fault (faultOf r (markFault r s)) := by
  cases h : preconditionFault i s with
  | none => exact .inl ⟨rfl, exec_of_no_preconditionFault h⟩
  | some r => exact .inr ⟨r, rfl, exec_of_preconditionFault h⟩

/-- The state a completed command leaves. -/
theorem eq_of_exec_next {i : Instr} {s t : State} (h : exec i s = .next t) :
    t = respond (responseOf i s) (effect i s) := by
  obtain ⟨-, he⟩ | ⟨r, -, he⟩ := exec_cases i s <;> rw [he] at h <;> cases h
  rfl

/-- The state a faulting command leaves: the one it found, with the mark. -/
theorem faultState_of_exec_fault {i : Instr} {s : State} {f : Fault} (h : exec i s = .fault f) :
    ∃ r, faultState f = markFault r s := by
  obtain ⟨-, he⟩ | ⟨r, -, he⟩ := exec_cases i s <;> rw [he] at h <;> cases h
  exact ⟨r, faultState_faultOf r _⟩

/-! ### The line events append no response -/

@[simp] theorem sample_responses (p : Line) (s : State) :
    (sample p s).2.responses = s.responses := by
  by_cases h : driver p s = .drivenLow
  · simp [sample_of_drivenLow h]
  · simp [sample_of_not_drivenLow h]

@[simp] theorem putSda_responses (b : Bit) (s : State) : (putSda b s).responses = s.responses := by
  cases b <;> simp [putSda]

@[simp] theorem startPrerelease_responses (s : State) :
    (startPrerelease s).responses = s.responses := by
  simp [startPrerelease]

@[simp] theorem startSequence_responses (s : State) :
    (startSequence s).responses = s.responses := by
  simp [startSequence]

@[simp] theorem stopSequence_responses (s : State) : (stopSequence s).responses = s.responses := by
  simp [stopSequence]

@[simp] theorem writeBits_responses (d : Byte) (s : State) :
    (writeBits d s).responses = s.responses := by
  unfold writeBits
  exact List.foldlRecOn (motive := fun t : State => t.responses = s.responses) wireOrder _ rfl
    fun t ht i _ => by simpa [writeBit_eq] using ht

@[simp] theorem writeAck_responses (s : State) : (writeAck s).2.responses = s.responses := by
  simp [writeAck]

@[simp] theorem readBit_responses (s : State) : (readBit s).2.responses = s.responses := by
  simp [readBit]

@[simp] theorem readBits_responses (s : State) : (readBits s).2.responses = s.responses := by
  unfold readBits
  exact List.foldlRecOn (motive := fun bs : Byte × State => bs.2.responses = s.responses)
    wireOrder readInto rfl fun bs hbs i _ => by simpa [readInto] using hbs

@[simp] theorem readAck_responses (a : Ack) (s : State) :
    (readAck a s).responses = s.responses := by
  simp [readAck]

@[simp] theorem effect_responses (i : Instr) (s : State) :
    (effect i s).responses = s.responses := by
  cases i with
  | start => cases hp : s.params.startPrerelease <;> simp [effect, hp]
  | init | stop | write | read | crcchk | lineLow | lineRelease | lineRead | delay => simp [effect]

/-! ### The response list a command leaves -/

/-- A command that completes appends its response, and only that. -/
theorem responses_of_exec_next {i : Instr} {s t : State} (h : exec i s = .next t) :
    t.responses = s.responses ++ [responseOf i s] := by
  simp [eq_of_exec_next h]

/-- A command that faults appends no response. -/
theorem responses_of_exec_fault {i : Instr} {s : State} {f : Fault} (h : exec i s = .fault f) :
    (faultState f).responses = s.responses := by
  obtain ⟨r, hr⟩ := faultState_of_exec_fault h
  simp [hr]

/-- Settles O25: every completed command appends `responseOf`, whose kind is read off its arms. -/
theorem eachCommandHasItsResponseKind : Obligations.EachCommandHasItsResponseKind := by
  refine ⟨fun i s t h => ⟨responseOf i s, responses_of_exec_next h, ?_, ?_, ?_, ?_⟩,
    fun _ _ _ => responses_of_exec_fault, rfl⟩
  · rintro (rfl | rfl | rfl | ⟨p, rfl | rfl⟩ | ⟨n, rfl⟩) <;> rfl
  · rintro (⟨d, rfl⟩ | ⟨data, c, rfl⟩) <;> exact ⟨_, rfl⟩
  · rintro ⟨a, rfl⟩
    exact ⟨_, rfl⟩
  · rintro ⟨p, rfl⟩
    exact ⟨_, rfl⟩

end Sys2Proof.Responses

/-! PROOFS. When the decoder refuses, on every byte sequence (30_encoding R70, R71), and that a step is
refused exactly when the decoder refuses at its position (60_exceptions R165). -/

namespace Sys2Proof.Refusals

open Sys2Proof.Machine Sys2Proof.Laws

/-! ### The rows of the opcode map -/

/-- The opcode bytes of the opcode map (R69). -/
def legalOpcodes : List Byte :=
  [0x10, 0x20, 0x30, 0x40, 0x50, 0x51, 0x60, 0x70, 0x71, 0x72, 0x73, 0x74, 0x75, 0x80]

theorem lookupRow_eq_none_iff (op : Byte) : lookupRow op = none ↔ op ∉ legalOpcodes := by
  revert op
  decide

theorem length_illegalOpcodes :
    ((List.range 256).filter (fun n => BitVec.ofNat 8 n ∉ legalOpcodes)).length = 242 := by
  decide +kernel

/-- The format of the row an opcode byte selects: one opcode each has operand bytes of its own kind,
and every other row is its opcode byte alone (R62, R69). -/
theorem lookupRow_format (op : Byte) : ∀ row ∈ lookupRow op,
    row.format = .f0 ∨ (op = 0x40 ∧ row.format = .fb) ∨ (op = 0x80 ∧ row.format = .fw) ∨
      (op = 0x60 ∧ row.format = .fv) := by
  revert op
  decide

/-! ### The refusals of the decoder -/

/-- Decoding a row refuses only a sequence shorter than the row's command, or one that does not reach
the byte that gives its length. -/
theorem decodeRow_eq_refuse_iff {row : OpcodeRow} {bytes : List Byte} {r : RefusalReason} :
    decodeRow row bytes = .refuse r ↔
      r = .truncated ∧ ∀ n, commandLength row.format bytes = some n → bytes.length < n := by
  unfold decodeRow
  cases commandLength row.format bytes with
  | none => simp [eq_comm]
  | some n =>
    by_cases hn : n ≤ bytes.length
    · simp [hn]
    · simpa [hn, eq_comm] using fun _ => Nat.lt_of_not_le hn

theorem decode_illegal_of_not_mem {op : Byte} (h : op ∉ legalOpcodes) (rest : List Byte) :
    decode (op :: rest) = .refuse .illegalOpcode :=
  decode_illegal ((lookupRow_eq_none_iff op).mpr h) rest

theorem decode_ne_illegal_of_mem {op : Byte} (h : op ∈ legalOpcodes) (rest : List Byte) :
    decode (op :: rest) ≠ .refuse .illegalOpcode := by
  cases hrow : lookupRow op with
  | none => exact absurd h ((lookupRow_eq_none_iff op).mp hrow)
  | some row =>
    rw [decode_legal hrow]
    intro hd
    exact absurd (decodeRow_eq_refuse_iff.mp hd).1 (by decide)

/-- The byte sequences that end inside a command (R71): a WRITE or a DELAY with a byte missing, and a
CRCCHK without its length byte or with fewer bytes after it than the data and the checksum. -/
def EndsInsideCommand (bytes : List Byte) : Prop :=
  bytes = [0x40] ∨ bytes = [0x80] ∨ (∃ nh, bytes = [0x80, nh]) ∨ bytes = [0x60] ∨
    ∃ n operands, bytes = 0x60 :: n :: operands ∧ operands.length < n.toNat + 1

theorem decode_of_endsInsideCommand {bytes : List Byte} (h : EndsInsideCommand bytes) :
    decode bytes = .refuse .truncated := by
  obtain rfl | rfl | ⟨nh, rfl⟩ | rfl | ⟨n, operands, rfl, hlen⟩ := h
  · rfl
  · rfl
  · rfl
  · rfl
  · have hrow : lookupRow 0x60 = some ⟨.crcchk, 0x60, 0xFF, .fv⟩ := rfl
    rw [decode_legal hrow, decodeRow_eq_refuse_iff]
    refine ⟨rfl, fun m hm => ?_⟩
    obtain rfl : n.toNat + 3 = m := by simpa [commandLength] using hm
    simp only [List.length_cons]
    omega

theorem endsInsideCommand_of_decode {bytes : List Byte}
    (h : decode bytes = .refuse .truncated) : EndsInsideCommand bytes := by
  match bytes with
  | [] => cases h
  | op :: rest =>
    cases hrow : lookupRow op with
    | none =>
      rw [decode_illegal hrow] at h
      cases h
    | some row =>
      rw [decode_legal hrow, decodeRow_eq_refuse_iff] at h
      obtain ⟨-, hshort⟩ := h
      obtain hf | ⟨rfl, hf⟩ | ⟨rfl, hf⟩ | ⟨rfl, hf⟩ := lookupRow_format op row hrow <;>
        rw [hf] at hshort
      case inl =>
        have hlen : rest.length + 1 < 1 := hshort 1 rfl
        omega
      case inr.inl =>
        obtain rfl : rest = [] := by simpa using hshort 2 rfl
        exact .inl rfl
      case inr.inr.inl =>
        match rest with
        | [] => exact .inr (.inl rfl)
        | [nh] => exact .inr (.inr (.inl ⟨nh, rfl⟩))
        | nh :: nl :: more =>
          have hlen : more.length + 3 < 3 := hshort 3 rfl
          omega
      case inr.inr.inr =>
        match rest with
        | [] => exact .inr (.inr (.inr (.inl rfl)))
        | n :: operands =>
          have hlen : operands.length + 2 < n.toNat + 3 := hshort (n.toNat + 3) rfl
          exact .inr (.inr (.inr (.inr ⟨n, operands, rfl, by omega⟩)))

/-- The decoder refuses as truncated exactly what ends inside a command. -/
theorem decode_eq_truncated_iff {bytes : List Byte} :
    decode bytes = .refuse .truncated ↔ EndsInsideCommand bytes :=
  ⟨endsInsideCommand_of_decode, decode_of_endsInsideCommand⟩

/-! ### The refusals of a step -/

/-- A step is refused only by the decoder, never by the command it decodes. -/
theorem step_eq_refused_iff {s : State} (hf : s.fault = none) (hr : s.refused = none)
    {q : Refusal} : step s = .refused q ↔
      ∃ r, fetch s = .refuse r ∧ q = refusalOf r (markRefused r s) := by
  rw [step_of_unmarked hf hr]
  cases fetch s with
  | nothing => simp
  | refuse r => simp [eq_comm]
  | command i rest =>
    obtain ⟨-, he⟩ | ⟨r, -, he⟩ := Responses.exec_cases i s <;> simp [he]

/-- What the decoder refuses sets the refusal mark and does nothing else. -/
theorem step_of_refuse {s : State} (hf : s.fault = none) (hr : s.refused = none)
    {r : RefusalReason} (h : fetch s = .refuse r) :
    step s = .refused (refusalOf r (markRefused r s)) :=
  (step_eq_refused_iff hf hr).mpr ⟨r, h, rfl⟩

/-- A refused block answers its refusal again, whatever is presented next. -/
theorem step_present_markRefused {s : State} (hf : s.fault = none) (r : RefusalReason)
    (bytes : List Byte) :
    step (present bytes (markRefused r s)) =
      .refused (refusalOf r (present bytes (markRefused r s))) :=
  step_of_refused (s := present bytes (markRefused r s)) hf rfl

/-- Settles O19: the decoder finds no row for exactly the other 242 bytes, and a legal opcode byte
leads to its row, which refuses only as truncated. -/
theorem illegalOpcodesAreRefused : Obligations.IllegalOpcodesAreRefused := by
  rintro _ rfl
  refine ⟨length_illegalOpcodes, fun s op rest hf hr hbytes hop => ⟨?_, fun bytes => ?_⟩,
    fun _ rest h => decode_ne_illegal_of_mem h rest⟩
  · have hfetch : fetch s = .refuse .illegalOpcode := by
      rw [fetch, remaining, hbytes]
      exact decode_illegal_of_not_mem hop rest
    exact step_of_refuse hf hr hfetch
  · exact step_present_markRefused hf .illegalOpcode bytes

/-- Settles O20: both directions are `decode_eq_truncated_iff` at the stream position. -/
theorem truncatedCommandsAreRefused : Obligations.TruncatedCommandsAreRefused := by
  refine fun s hf hr => ⟨fun hends => ?_, fun t ht => ?_⟩
  · exact step_of_refuse hf hr (decode_eq_truncated_iff.mpr hends)
  · obtain ⟨r, hfetch, hq⟩ := (step_eq_refused_iff hf hr).mp ht
    cases r with
    | illegalOpcode => cases hq
    | truncated => exact decode_eq_truncated_iff.mp hfetch

end Sys2Proof.Refusals

/-! PROOFS. The line driver: the level of a line and the answer of a sample (40_line_driver section
1), and the commands LINE_RELEASE, LINE_READ and DELAY from their bytes to the state they leave
(section 2). -/

namespace Sys2Proof.LineDriver

open Sys2Proof.Machine Sys2Proof.Laws Sys2Proof.Responses

/-! ### The pad and the level of a line (R82) -/

theorem padLow_iff {p : Line} {s : State} : padLow p s = true ↔ driver p s = .drivenLow :=
  beq_iff_eq

/-- A line that the block drives low is low. -/
theorem lineLevel_of_drivenLow {p : Line} {s : State} (h : driver p s = .drivenLow)
    (others : Bit) : lineLevel p s others = false := by
  simp [lineLevel, padLow_iff.mpr h]

/-- A line that the block does not drive low has the level the environment gives it. -/
theorem lineLevel_of_not_drivenLow {p : Line} {s : State} (h : driver p s ≠ .drivenLow)
    (others : Bit) : lineLevel p s others = others := by
  simp [lineLevel, eq_false_of_ne_true (mt padLow_iff.mp h)]

theorem release_driver_ne_drivenLow (p : Line) (s : State) :
    driver p (release p s) ≠ .drivenLow := by
  rw [release_driver_self]
  decide

/-- Settles O3: the driver and the event by definition, the level by the wired AND of R82. -/
theorem driveLowPullsTheLine : Obligations.DriveLowPullsTheLine := fun s =>
  ⟨rfl, rfl, fun p => ⟨padLow_iff.mpr (driveLow_driver_self p s),
    lineLevel_of_drivenLow (driveLow_driver_self p s)⟩⟩

/-- Settles O4: the driver and the event by definition, the level by the wired AND of R82. -/
theorem releaseLetsTheLineGo : Obligations.ReleaseLetsTheLineGo := fun s =>
  ⟨rfl, rfl, fun p =>
    ⟨eq_false_of_ne_true (mt padLow_iff.mp (release_driver_ne_drivenLow p s)),
      lineLevel_of_not_drivenLow (release_driver_ne_drivenLow p s)⟩⟩

/-- Settles O6: `delay` is its event. -/
theorem delayOnlyAppendsItsEvent : Obligations.DelayOnlyAppendsItsEvent := fun _ _ => rfl

/-! ### Draws and samples (R83) -/

@[simp] theorem driver_with_answers (p : Line) (s : State) (answers : List Bit) :
    driver p { s with answers := answers } = driver p s := by
  cases p <;> rfl

/-- The first answer laid down is the draw. -/
theorem draw_of_answers_cons {s : State} {v : Bit} {vs : List Bit} (h : s.answers = v :: vs)
    (p : Line) : draw p s = v := by
  simp [draw, h]

/-- Without an answer laid down the draw is the environment's. -/
theorem draw_of_answers_nil {s : State} (h : s.answers = []) (p : Line) :
    draw p s = Config.env s.trace p := by
  simp [draw, h]

theorem exists_draw_eq (p : Line) (s : State) (v : Bit) :
    ∃ answers, draw p { s with answers := answers } = v :=
  ⟨[v], draw_of_answers_cons rfl p⟩

theorem sample_of_released {p : Line} {s : State} (h : driver p s = .released) :
    sample p s = (draw p s, emit (.sample p (draw p s)) (takeAnswer s)) :=
  sample_of_not_drivenLow (by simp [h])

/-! ### A command that samples an unconfigured line faults (R88, R100) -/

theorem configured_eq_false {p : Line} {s : State} (h : driver p s = .unconfigured) :
    configured p s = false :=
  eq_false_of_ne_true fun hc => (configured_iff p s).mp hc h

theorem bothConfigured_eq_false {p : Line} {s : State} (h : driver p s = .unconfigured) :
    bothConfigured s = false := by
  cases p <;> simp [bothConfigured, configured_eq_false h]

/-- WRITE, READ and LINE_READ check every line they sample. -/
theorem preconditionFault_of_unconfigured {p : Line} {s : State} (h : driver p s = .unconfigured)
    {d : Byte} {a : Ack} {i : Instr} (hi : i = .write d ∨ i = .read a ∨ i = .lineRead p) :
    ∃ r, preconditionFault i s = some r := by
  obtain rfl | rfl | rfl := hi
  · exact ⟨.notInitialised, by simp [preconditionFault, bothConfigured_eq_false h]⟩
  · exact ⟨.notInitialised, by simp [preconditionFault, bothConfigured_eq_false h]⟩
  · exact ⟨.readUnconfigured, by simp [preconditionFault, configured_eq_false h]⟩

/-- A command with a precondition fault leaves no event. -/
theorem trace_of_preconditionFault {i : Instr} {s t : State} {r : FaultReason}
    (h : preconditionFault i s = some r) (ht : stateAfter (exec i s) = some t) :
    t.trace = s.trace := by
  rw [exec_of_preconditionFault h] at ht
  obtain rfl : markFault r s = t := by simpa [stateAfter] using ht
  exact markFault_trace r s

/-- Settles O5: the driver decides between a draw, a 0 and the precondition fault. -/
theorem sampleReadsTheLine : Obligations.SampleReadsTheLine := by
  refine ⟨fun p s h => ?released, fun p s h => draw_of_answers_nil h p, fun p s v h => ?anyLevel,
    fun p s h => ?drivenLow, fun p s h d a i hi t ht => ?unconfigured⟩
  case released =>
    rw [sample_of_released h]
    rfl
  case anyLevel =>
    obtain ⟨answers, hv⟩ := exists_draw_eq p s v
    exact ⟨answers, by simp [sample_of_released, h, hv]⟩
  case drivenLow =>
    rw [sample_of_drivenLow h]
    rfl
  case unconfigured =>
    obtain ⟨r, hr⟩ := preconditionFault_of_unconfigured h hi
    exact trace_of_preconditionFault hr ht

/-! ### Decoding (R62, R69) -/

/-- A command of format F0 is its opcode byte, whatever follows. -/
theorem decode_of_f0 {op : Byte} {row : OpcodeRow} (hrow : lookupRow op = some row)
    (hf : row.format = .f0) (rest : List Byte) :
    decode (op :: rest) = .command (instrOf row.op (op :: rest)) rest := by
  have hlen : commandLength row.format (op :: rest) = some 1 := by rw [hf]; rfl
  rw [decode_legal hrow, decodeRow_of_length hlen (by simp)]
  rfl

/-- Field `p` of an opcode byte names its line (R64). -/
theorem lineOfBit_bitOf_or {op : Byte} (h : bitOf op 0 = false) (p : Line) :
    lineOfBit (bitOf (op ||| byteOfBit (bitOfLine p)) 0) = p := by
  have hop : op[0] = false := by simpa [bitOf] using h
  cases p <;> simp [bitOf, bitOfLine, byteOfBit, lineOfBit, hop]

theorem decode_encode_lineRelease (p : Line) (rest : List Byte) :
    decode (encode (.lineRelease p) ++ rest) = .command (.lineRelease p) rest := by
  have hrow : lookupRow (0x72 ||| byteOfBit (bitOfLine p)) =
      some ⟨.lineRelease, 0x72, 0xFE, .f0⟩ := by cases p <;> rfl
  refine (decode_of_f0 hrow rfl rest).trans ?_
  rw [instrOf, byteAt_zero, lineOfBit_bitOf_or rfl]

theorem decode_encode_lineRead (p : Line) (rest : List Byte) :
    decode (encode (.lineRead p) ++ rest) = .command (.lineRead p) rest := by
  have hrow : lookupRow (0x74 ||| byteOfBit (bitOfLine p)) =
      some ⟨.lineRead, 0x74, 0xFE, .f0⟩ := by cases p <;> rfl
  refine (decode_of_f0 hrow rfl rest).trans ?_
  rw [instrOf, byteAt_zero, lineOfBit_bitOf_or rfl]

theorem decode_delay (nh nl : Byte) (rest : List Byte) :
    decode (0x80 :: nh :: nl :: rest) = .command (.delay (countOfBytes nh nl)) rest := by
  have hrow : lookupRow 0x80 = some ⟨.delay, 0x80, 0xFF, .fw⟩ := rfl
  rw [decode_legal hrow, decodeRow_of_length (n := 3) rfl (by simp)]
  rfl

/-- High byte first: two bytes fit the count, so it is their value (R66). -/
theorem countOfBytes_toNat (nh nl : Byte) :
    (countOfBytes nh nl).toNat = nh.toNat * 256 + nl.toNat := by
  have hh := nh.isLt
  have hl := nl.isLt
  rw [countOfBytes, BitVec.toNat_ofNat, Nat.mod_eq_of_lt (by omega)]

/-! ### The commands (R87, R88, R89) -/

/-- Settles O14: LINE_RELEASE is `Release(p)` and the response none, on either line. -/
theorem lineReleaseReleasesTheLine : Obligations.LineReleaseReleasesTheLine :=
  ⟨fun rest => ⟨decode_encode_lineRelease .sda rest, decode_encode_lineRelease .scl rest⟩,
    fun _ => ⟨rfl, rfl⟩⟩

/-- On a configured line LINE_READ samples and responds the level it read. -/
theorem exec_lineRead_of_configured {p : Line} {s : State} (h : driver p s ≠ .unconfigured) :
    exec (.lineRead p) s = .next (respond (.level (sample p s).1) (sample p s).2) :=
  exec_of_no_preconditionFault (by simp [preconditionFault, (configured_iff p s).mpr h])

theorem exec_lineRead_of_unconfigured {p : Line} {s : State} (h : driver p s = .unconfigured) :
    exec (.lineRead p) s = .fault (.readUnconfigured (markFault .readUnconfigured s)) :=
  exec_of_preconditionFault (r := .readUnconfigured)
    (by simp [preconditionFault, configured_eq_false h])

/-- Settles O15: LINE_READ is the sample of R83 when the line is configured, else the fault. -/
theorem lineReadRespondsTheLevel : Obligations.LineReadRespondsTheLevel := by
  refine ⟨fun rest => ⟨decode_encode_lineRead .sda rest, decode_encode_lineRead .scl rest⟩,
    fun p s h => ?released, exists_draw_eq, fun p s h => ?drivenLow,
    fun p s h => exec_lineRead_of_unconfigured h⟩
  case released =>
    rw [exec_lineRead_of_configured (by simp [h]), sample_of_released h]
    rfl
  case drivenLow =>
    rw [exec_lineRead_of_configured (by simp [h]), sample_of_drivenLow h]
    rfl

/-- Settles O16: the count is `countOfBytes`, and DELAY is `Delay(n)` and the response none. -/
theorem delayAppendsItsCount : Obligations.DelayAppendsItsCount :=
  ⟨fun nh nl rest => ⟨countOfBytes nh nl, countOfBytes_toNat nh nl, decode_delay nh nl rest⟩,
    fun _ _ => rfl⟩

end Sys2Proof.LineDriver

/-! PROOFS. The bus engine: the precondition its commands share (41_bus_engine R100), WRITE and READ
from their bytes to the state they leave (R104, R106), and that no sampled value shapes the events
or the drivers of any command (R109). -/

namespace Sys2Proof.BusEngine

open Sys2Proof.Machine Sys2Proof.Laws Sys2Proof.Responses Sys2Proof.LineDriver

/-! ### The common precondition (R100) -/

/-- The commands that R100 lets run only on configured lines. -/
def NeedsConfiguredLines (i : Instr) (s : State) : Prop :=
  i = .stop ∨ (∃ d, i = .write d) ∨ (∃ a, i = .read a) ∨
    (i = .start ∧ s.params.startPrerelease = false)

theorem needsConfiguredLines_write (d : Byte) (s : State) : NeedsConfiguredLines (.write d) s :=
  .inr (.inl ⟨d, rfl⟩)

theorem needsConfiguredLines_read (a : Ack) (s : State) : NeedsConfiguredLines (.read a) s :=
  .inr (.inr (.inl ⟨a, rfl⟩))

theorem NeedsConfiguredLines.preconditionFault_eq {i : Instr} {s : State}
    (hi : NeedsConfiguredLines i s) :
    preconditionFault i s = if bothConfigured s then none else some .notInitialised := by
  obtain rfl | ⟨d, rfl⟩ | ⟨a, rfl⟩ | ⟨rfl, hp⟩ := hi
  case inr.inr.inr => simp [preconditionFault, hp]
  all_goals rfl

theorem NeedsConfiguredLines.exec_of_configured {i : Instr} {s : State}
    (hi : NeedsConfiguredLines i s) (hsda : s.drvSda ≠ .unconfigured)
    (hscl : s.drvScl ≠ .unconfigured) :
    exec i s = .next (respond (responseOf i s) (effect i s)) := by
  have hboth : bothConfigured s = true := (bothConfigured_iff s).mpr ⟨hsda, hscl⟩
  exact exec_of_no_preconditionFault (by simp [hi.preconditionFault_eq, hboth])

theorem NeedsConfiguredLines.exec_of_unconfigured {i : Instr} {s : State}
    (hi : NeedsConfiguredLines i s) (h : s.drvSda = .unconfigured ∨ s.drvScl = .unconfigured) :
    exec i s = .fault (.notInitialised (markFault .notInitialised s)) := by
  have hboth : bothConfigured s = false :=
    h.elim (bothConfigured_eq_false (p := .sda)) (bothConfigured_eq_false (p := .scl))
  exact exec_of_preconditionFault (r := .notInitialised) (by simp [hi.preconditionFault_eq, hboth])

/-- Settles O17: the shared precondition decides; INIT and START with the pre-release have none. -/
theorem busCommandsNeedConfiguredLines : Obligations.BusCommandsNeedConfiguredLines := by
  refine ⟨fun s i hi => ⟨fun h => ⟨?faults, ?stops⟩, fun hsda hscl => ?completes⟩,
    fun s => ⟨⟨_, rfl⟩, fun hp => ?prerelease⟩⟩
  case faults => exact NeedsConfiguredLines.exec_of_unconfigured hi h
  case stops => exact step_of_fault (s := markFault .notInitialised s) rfl
  case completes => exact ⟨_, NeedsConfiguredLines.exec_of_configured hi hsda hscl⟩
  case prerelease => exact ⟨_, exec_of_no_preconditionFault (by simp [preconditionFault, hp])⟩

/-! ### WRITE (R104) -/

theorem decode_write (d : Byte) (rest : List Byte) :
    decode (0x40 :: d :: rest) = .command (.write d) rest := by
  have hrow : lookupRow 0x40 = some ⟨.write, 0x40, 0xFF, .fb⟩ := rfl
  rw [decode_legal hrow, decodeRow_of_length (n := 2) rfl (by simp)]
  rfl

/-- The eight data bits of WRITE, whole; the last bit on the wire leaves SDA as it says. -/
theorem writeBits_eq (d : Byte) (s : State) :
    writeBits d s =
      { s with
        drvSda := if bitOf d 0 then .released else .drivenLow
        drvScl := .drivenLow
        trace := s.trace ++ writeDataEvents s.params d } := by
  simp [writeBits, wireOrder, writeBit_eq, writeDataEvents, bitOf]

/-- The events of WRITE's ninth clock before its sample (R104). -/
def writeAckEventsBefore (c : Config.Params) : List Event :=
  [.release .sda, .release .scl, .delay c.tWrAckSu]

/-- The acknowledge clock of WRITE, whole: SDA is released, so its sample is a draw. -/
theorem writeAck_eq (s : State) {v : Bit}
    (hv : v = draw .sda { s with trace := s.trace ++ writeAckEventsBefore s.params }) :
    writeAck s =
      (v, { s with
        drvSda := .released
        drvScl := .drivenLow
        trace := s.trace ++ writeAckEventsBefore s.params ++
          [.sample .sda v, .drive .scl, .delay s.params.tWrSettle]
        answers := s.answers.tail }) := by
  have hd : driver .sda (delay s.params.tWrAckSu (release .scl (release .sda s))) = .released := by
    simp
  subst hv
  unfold writeAck
  rw [sample_of_released hd]
  simp [takeAnswer, delay, driveLow, release, emit, setDriver, writeAckEventsBefore, draw]

/-- WRITE's ninth clock after its data bits, whole, with the one sample `v`. -/
theorem writeAck_writeBits (d : Byte) (s : State) {v : Bit}
    (hv : v = draw .sda { s with trace := s.trace ++ writeEventsBeforeAck s.params d }) :
    writeAck (writeBits d s) =
      (v, { s with
        drvSda := .released
        drvScl := .drivenLow
        trace := s.trace ++ writeEvents s.params d v
        answers := s.answers.tail }) := by
  have hack : v = draw .sda { writeBits d s with
      trace := (writeBits d s).trace ++ writeAckEventsBefore (writeBits d s).params } := by
    rw [hv, writeBits_eq]
    simp [draw, writeEventsBeforeAck, writeAckEventsBefore]
  rw [writeAck_eq _ hack, writeBits_eq]
  simp [writeEvents, writeEventsBeforeAck, writeAckEventsBefore]

/-- The line events of WRITE, whole, with the sample it made. -/
theorem effect_write (d : Byte) (s : State) :
    ∃ v, effect (.write d) s =
      { s with
        drvSda := .released
        drvScl := .drivenLow
        trace := s.trace ++ writeEvents s.params d v
        answers := s.answers.tail } :=
  ⟨_, congrArg Prod.snd (writeAck_writeBits d s rfl)⟩

/-- Settles O10: on configured lines WRITE is its data bits and its acknowledge clock. -/
theorem writeSendsTheByteAndSamplesTheAck : Obligations.WriteSendsTheByteAndSamplesTheAck := by
  refine ⟨decode_write, fun d s hsda hscl v hv => ?_,
    fun d s h => (needsConfiguredLines_write d s).exec_of_unconfigured h⟩
  rw [(needsConfiguredLines_write d s).exec_of_configured hsda hscl]
  simp only [responseOf, effect, writeAck_writeBits d s hv]
  rfl

/-! ### The data clocks of READ (R106) -/

/-- The state one data clock of READ leaves when it sampled `v`. -/
def afterReadClock (s : State) (v : Bit) : State :=
  { s with
    drvScl := .drivenLow
    trace := s.trace ++ readBitEvents s.params v
    answers := s.answers.tail }

/-- What a data clock of READ samples. -/
def clockDraw (s : State) : Bit :=
  draw .sda { s with trace := s.trace ++ readBitEventsBefore s.params }

theorem readBit_eq_clockDraw {s : State} (h : s.drvSda = .released) :
    readBit s = (clockDraw s, afterReadClock s (clockDraw s)) :=
  readBit_eq s h

/-- What `n` data clocks of READ sample, oldest first. -/
def readSamples : Nat → State → List Bit
  | 0, _ => []
  | n + 1, s => clockDraw s :: readSamples n (afterReadClock s (clockDraw s))

@[simp] theorem length_readSamples (n : Nat) (s : State) : (readSamples n s).length = n := by
  induction n generalizing s with
  | zero => rfl
  | succ n ih => simp [readSamples, ih]

/-- Each sample is what the clock at its place draws in the state the clocks before it leave. -/
theorem getElem_readSamples (n : Nat) (s : State) (i : Nat) (h : i < (readSamples n s).length) :
    (readSamples n s)[i] = clockDraw (((readSamples n s).take i).foldl afterReadClock s) := by
  induction n generalizing s i with
  | zero => cases h
  | succ n ih =>
    cases i with
    | zero => rfl
    | succ i => exact ih _ i (by simpa [readSamples] using h)

/-- The state a row of data clocks leaves: their events, their answers used, SCL low at the end. -/
theorem foldl_afterReadClock (vs : List Bit) (s : State) :
    vs.foldl afterReadClock s =
      { s with
        drvScl := if vs = [] then s.drvScl else .drivenLow
        trace := s.trace ++ vs.flatMap (readBitEvents s.params)
        answers := s.answers.drop vs.length } := by
  induction vs generalizing s with
  | nil => simp
  | cons v vs ih => simp [ih, afterReadClock]

/-- Samples ORed into a byte, each at its place. -/
def orSamples (b : Byte) (is : List Nat) (vs : List Bit) : Byte :=
  (is.zip vs).foldl (fun b iv => orBit b iv.2 iv.1) b

/-- READ's data clocks OR their samples into the byte. -/
theorem foldl_readInto (is : List Nat) (b : Byte) {s : State} (h : s.drvSda = .released) :
    is.foldl readInto (b, s) =
      (orSamples b is (readSamples is.length s),
        (readSamples is.length s).foldl afterReadClock s) := by
  induction is generalizing b s with
  | nil => rfl
  | cons i is ih =>
    have hclock : readInto (b, s) i =
        (orBit b (clockDraw s) i, afterReadClock s (clockDraw s)) := by
      simp only [readInto, readBit_eq_clockDraw h]
    rw [List.foldl_cons, hclock, ih _ (s := afterReadClock s (clockDraw s)) h]
    rfl

/-! ### The byte of READ (R106, 20_memory R42) -/

theorem byteOfSamples_concat (vs : List Bit) (v : Bit) :
    byteOfSamples (vs ++ [v]) = byteOfSamples vs <<< 1 ||| byteOfBit v :=
  List.foldl_concat ..

/-- Bit `i` is the sample `i` places before the last, 0 where there is none. -/
theorem getLsbD_byteOfSamples (vs : List Bit) {i : Nat} (hi : i < 8) :
    (byteOfSamples vs).getLsbD i = vs.reverse.getD i false := by
  induction vs using List.reverseRecOn generalizing i with
  | nil => simp [byteOfSamples]
  | append_singleton vs v ih =>
    rw [byteOfSamples_concat]
    cases i with
    | zero => cases v <;> simp [byteOfBit]
    | succ i =>
      have hlt : i < 8 := Nat.lt_of_succ_lt hi
      cases v <;> simpa [byteOfBit, hi, hlt] using ih hlt

/-- Counted from the first sample: bit `i` of `n` samples is the `(n - i)`-th. -/
theorem some_getLsbD_byteOfSamples {vs : List Bit} {i : Nat} (hi : i < 8) (hlen : i < vs.length) :
    some ((byteOfSamples vs).getLsbD i) = vs[vs.length - 1 - i]? := by
  rw [getLsbD_byteOfSamples vs hi, ← List.getElem?_reverse hlen]
  simp [hlen]

/-- Eight samples ORed into 0 at the places of the wire order are the byte of the samples. -/
theorem orSamples_wireOrder {vs : List Bit} (h : vs.length = 8) :
    orSamples 0 wireOrder vs = byteOfSamples vs := by
  match vs, h with
  | [v7, v6, v5, v4, v3, v2, v1, v0], _ =>
    revert v7 v6 v5 v4 v3 v2 v1 v0
    decide

/-! ### READ (R106) -/

/-- Field `a` of READ's opcode byte names its acknowledge (R63). -/
theorem ackOfBit_bitOf_or (a : Ack) : ackOfBit (bitOf (0x50 ||| byteOfBit (bitOfAck a)) 0) = a := by
  cases a <;> rfl

theorem decode_encode_read (a : Ack) (rest : List Byte) :
    decode (encode (.read a) ++ rest) = .command (.read a) rest := by
  have hrow : lookupRow (0x50 ||| byteOfBit (bitOfAck a)) = some ⟨.read, 0x50, 0xFE, .f0⟩ := by
    cases a <;> rfl
  refine (decode_of_f0 hrow rfl rest).trans ?_
  rw [instrOf, byteAt_zero, ackOfBit_bitOf_or]

/-- The eight data clocks of READ, whole, on a released SDA. -/
theorem readBits_eq {s : State} (h : s.drvSda = .released) :
    readBits s =
      (byteOfSamples (readSamples 8 s),
        { s with
          drvScl := .drivenLow
          trace := s.trace ++ (readSamples 8 s).flatMap (readBitEvents s.params)
          answers := s.answers.drop 8 }) := by
  have hne : readSamples 8 s ≠ [] := List.ne_nil_of_length_eq_add_one (length_readSamples 8 s)
  have hbyte : orSamples 0 wireOrder (readSamples 8 s) = byteOfSamples (readSamples 8 s) :=
    orSamples_wireOrder (length_readSamples 8 s)
  refine (foldl_readInto wireOrder 0 h).trans (Prod.ext hbyte ?_)
  simp [foldl_afterReadClock, wireOrder, hne]

/-- The acknowledge clock of READ, whole. -/
theorem readAck_eq (a : Ack) (s : State) :
    readAck a s =
      { s with
        drvSda := .released
        drvScl := .drivenLow
        trace := s.trace ++ readAckEvents s.params a } := by
  cases a <;> simp [readAck, readAckEvents, ackAction, bitOfAck, putSda, delay, driveLow, release,
    emit, setDriver]

/-- What READ samples: the eight data clocks after the release of SDA. -/
def samplesOfRead (s : State) : List Bit := readSamples 8 (release .sda s)

theorem readBits_release (s : State) : readBits (release .sda s) =
    (byteOfSamples (samplesOfRead s),
      { s with
        drvSda := .released
        drvScl := .drivenLow
        trace := s.trace ++ readEventsAfter s.params (samplesOfRead s)
        answers := s.answers.drop 8 }) := by
  rw [readBits_eq (release_sda_drvSda s)]
  simp [samplesOfRead, readEventsAfter, release, emit, setDriver]

/-- The line events of READ, whole. -/
theorem effect_read (a : Ack) (s : State) :
    effect (.read a) s =
      { s with
        drvSda := .released
        drvScl := .drivenLow
        trace := s.trace ++ readEvents s.params a (samplesOfRead s)
        answers := s.answers.drop 8 } := by
  simp [effect, readBits_release, readAck_eq, readEvents]

/-- Each sample of READ is a draw at its own history. -/
theorem getElem_samplesOfRead (s : State) (i : Nat) (h : i < (samplesOfRead s).length) :
    (samplesOfRead s)[i] = draw .sda
      { s with
        trace := s.trace ++ readEventsAfter s.params ((samplesOfRead s).take i) ++
          readBitEventsBefore s.params
        answers := s.answers.drop i } := by
  unfold samplesOfRead at h ⊢
  rw [getElem_readSamples, foldl_afterReadClock, List.length_take_of_le h.le]
  simp [clockDraw, draw, readEventsAfter]

/-- Settles O11: on configured lines READ is its eight data clocks and its acknowledge clock. -/
theorem readAssemblesEightSamples : Obligations.ReadAssemblesEightSamples := by
  refine ⟨fun rest => ⟨decode_encode_read .ack rest, decode_encode_read .noAck rest⟩,
    fun a s hsda hscl => ?_, fun a s h => (needsConfiguredLines_read a s).exec_of_unconfigured h⟩
  have hlen : (samplesOfRead s).length = 8 := length_readSamples 8 _
  refine ⟨samplesOfRead s, hlen, getElem_samplesOfRead s, fun i hi => ?bits, ?whole⟩
  case bits =>
    rw [some_getLsbD_byteOfSamples hi (by omega), hlen]
  case whole =>
    rw [(needsConfiguredLines_read a s).exec_of_configured hsda hscl, effect_read]
    simp only [responseOf, readBits_release]
    rfl

/-! ### What a command does to the lines is fixed before it samples (R109) -/

/-- The shape of a command's events. -/
def commandShape (i : Instr) (c : Config.Params) : List Event :=
  match i with
  | .init => initEvents
  | .start => startEvents c
  | .stop => stopEvents c
  | .write d => writeEvents c d false
  | .read a => readEvents c a (List.replicate 8 false)
  | .crcchk _ _ => []
  | .lineLow p => [.drive p]
  | .lineRelease p => [.release p]
  | .lineRead p => [.sample p false]
  | .delay n => [.delay n.toNat]

theorem map_eventShape_startEvents (c : Config.Params) :
    (startEvents c).map eventShape = startEvents c := by
  cases hp : c.startPrerelease <;> simp [startEvents, hp, startStepList, eventShape]

theorem map_eventShape_readBitEvents (c : Config.Params) (v : Bit) :
    (readBitEvents c v).map eventShape = readBitEvents c false := rfl

theorem map_eventShape_writeBitEvents (c : Config.Params) (b : Bit) :
    (writeBitEvents c b).map eventShape = writeBitEvents c b := by
  cases b <;> rfl

theorem map_eventShape_writeEvents (c : Config.Params) (d : Byte) (v : Bit) :
    (writeEvents c d v).map eventShape = writeEvents c d false := by
  simp [writeEvents, writeEventsBeforeAck, writeDataEvents, map_eventShape_writeBitEvents,
    eventShape]

theorem map_eventShape_readEvents (c : Config.Params) (a : Ack) (vs : List Bit) :
    (readEvents c a vs).map eventShape = readEvents c a (List.replicate vs.length false) := by
  have hack : (readAckEvents c a).map eventShape = readAckEvents c a := by cases a <;> rfl
  have hdata : (vs.flatMap (readBitEvents c)).map eventShape =
      (List.replicate vs.length false).flatMap (readBitEvents c) := by
    induction vs with
    | nil => rfl
    | cons v vs ih =>
      rw [List.flatMap_cons, List.map_append, ih, map_eventShape_readBitEvents]
      rfl
  simp [readEvents, readEventsAfter, hack, hdata, eventShape]

theorem effect_start_trace (s : State) :
    (effect .start s).trace = s.trace ++ startEvents s.params := by
  cases hp : s.params.startPrerelease <;>
    simp [effect, startEvents, hp, startSequence, startPrerelease, startStepList]

theorem sample_trace (p : Line) (s : State) :
    (sample p s).2.trace = s.trace ++ [.sample p (sample p s).1] := by
  by_cases h : driver p s = .drivenLow
  · simp [sample_of_drivenLow h]
  · simp [sample_of_not_drivenLow h]

theorem linesOf_sample (p : Line) (s : State) : linesOf (sample p s).2 = linesOf s := by
  by_cases h : driver p s = .drivenLow
  · simp [sample_of_drivenLow h, linesOf]
  · simp [sample_of_not_drivenLow h, linesOf]

/-- The events of a command have its shape, whatever it sampled. -/
theorem effect_trace (i : Instr) (s : State) :
    ∃ es, (effect i s).trace = s.trace ++ es ∧ es.map eventShape = commandShape i s.params := by
  cases i with
  | start => exact ⟨_, effect_start_trace s, map_eventShape_startEvents s.params⟩
  | write d =>
    obtain ⟨v, hv⟩ := effect_write d s
    exact ⟨_, by rw [hv], map_eventShape_writeEvents s.params d v⟩
  | read a =>
    refine ⟨_, by rw [effect_read], ?_⟩
    rw [map_eventShape_readEvents]
    simp [samplesOfRead, commandShape]
  | lineRead p => exact ⟨_, sample_trace p s, rfl⟩
  | crcchk data c => exact ⟨[], by simp [effect], rfl⟩
  | init => exact ⟨initEvents, by simp [effect, initEvents], rfl⟩
  | stop => exact ⟨stopEvents s.params, by simp [effect, stopSequence, stopEvents], rfl⟩
  | lineLow p => exact ⟨_, driveLow_trace p s, rfl⟩
  | lineRelease p => exact ⟨_, release_trace p s, rfl⟩
  | delay n => exact ⟨_, delay_trace n.toNat s, rfl⟩

/-- Replaying the shape of a command gives the drivers it leaves. -/
theorem linesOf_effect (i : Instr) (s : State) :
    linesOf (effect i s) = replay (linesOf s) (commandShape i s.params) := by
  cases i with
  | start =>
    cases hp : s.params.startPrerelease <;>
      simp only [effect, commandShape, startEvents, hp] <;> rfl
  | write d =>
    obtain ⟨v, hv⟩ := effect_write d s
    rw [hv]
    rfl
  | read a =>
    rw [effect_read]
    cases a <;> rfl
  | lineRead p => exact linesOf_sample p s
  | lineLow p | lineRelease p => cases p <;> rfl
  | init | stop | crcchk | delay => rfl

/-- Settles O33: the drivers and the shape of the events are functions of the command, the drivers
before it and the parameters. -/
theorem sampledValuesNeverSteerTheLines : Obligations.SampledValuesNeverSteerTheLines := by
  intro i s u t w hlines hparams ht hw
  obtain rfl := eq_of_exec_next ht
  obtain rfl := eq_of_exec_next hw
  obtain ⟨es, hes, hshape⟩ := effect_trace i s
  obtain ⟨fs, hfs, gshape⟩ := effect_trace i u
  refine ⟨?drivers, fun es' fs' hes' hfs' => ?events⟩
  case drivers =>
    calc linesOf (effect i s) = replay (linesOf s) (commandShape i s.params) := linesOf_effect i s
      _ = replay (linesOf u) (commandShape i u.params) := by rw [hlines, hparams]
      _ = linesOf (effect i u) := (linesOf_effect i u).symm
  case events =>
    obtain rfl : es = es' := List.append_cancel_left (hes.symm.trans hes')
    obtain rfl : fs = fs' := List.append_cancel_left (hfs.symm.trans hfs')
    rw [hshape, gshape, hparams]

end Sys2Proof.BusEngine

/-! PROOFS. The CRC-8 validator: CRCCHK from its bytes to its response (42_crc8 R141), and that the CRC
on bytes is the spec's pseudocode on naturals (R140). -/

namespace Sys2Proof.CrcValidator

open Sys2Proof.Machine Sys2Proof.Laws Sys2Proof.Responses

/-! ### CRCCHK (R141) -/

/-- The checksum stands right after the data (R62). -/
theorem byteAt_append_length (data : List Byte) (c : Byte) (rest : List Byte) :
    byteAt (data ++ c :: rest) data.length = c := by
  simp [byteAt]

/-- The data's length fits the length byte, so the decoder reads back the data and the checksum
(R67). -/
theorem decode_crcchk {data : List Byte} (h : data.length ≤ maxCrcData) (c : Byte)
    (rest : List Byte) :
    decode (0x60 :: BitVec.ofNat 8 data.length :: (data ++ c :: rest)) =
      .command (.crcchk data c) rest := by
  have hrow : lookupRow 0x60 = some ⟨.crcchk, 0x60, 0xFF, .fv⟩ := rfl
  have hn : (BitVec.ofNat 8 data.length).toNat = data.length := by
    rw [BitVec.toNat_ofNat, Nat.mod_eq_of_lt (b := 2 ^ 8) (Nat.lt_succ_of_le h)]
  have hlen : commandLength .fv (0x60 :: BitVec.ofNat 8 data.length :: (data ++ c :: rest)) =
      some (data.length + 3) := by simp [commandLength, hn]
  rw [decode_legal hrow, decodeRow_of_length hlen (by simp)]
  simp [instrOf, hn, byteAt_append_length]

/-- Settles O12: CRCCHK has no precondition and no line events, so its mask is all it adds. -/
theorem crcchkComparesTheChecksum : Obligations.CrcchkComparesTheChecksum := by
  refine ⟨fun data c rest h => decode_crcchk h c rest, fun data c s => ?completes, ?vectors⟩
  case completes => exact exec_of_no_preconditionFault (i := .crcchk data c) rfl
  case vectors => decide

/-! ### The CRC on naturals (R140) -/

theorem trunc8_xor (a b : Nat) : trunc8 (a ^^^ b) = trunc8 a ^^^ trunc8 b :=
  Nat.xor_mod_two_pow (n := 8)

/-- The polynomial is below 0x100, so truncation leaves it as it is. -/
theorem trunc8_xor_poly (v : Nat) : trunc8 (v ^^^ 0x31) = trunc8 v ^^^ 0x31 :=
  trunc8_xor v 0x31

/-- A byte shifted left is the truncated shift of its value. -/
theorem toNat_shiftLeft_one (acc : Byte) : (acc <<< 1).toNat = trunc8 (acc.toNat <<< 1) :=
  BitVec.toNat_shiftLeft

/-- One shift of the accumulator commutes with reading the byte's value. -/
theorem semiconj_toNat_crcShift :
    Function.Semiconj BitVec.toNat (crcShift Config.specParams.crcPoly) crcShiftNat := by
  intro acc
  have hbit : acc.toNat.testBit 7 = bitOf acc 7 := BitVec.testBit_toNat acc
  cases h : bitOf acc 7 with
  | false =>
    simp only [crcShift, crcShiftNat, hbit, h, Bool.false_eq_true, if_false]
    exact toNat_shiftLeft_one acc
  | true =>
    simp only [crcShift, crcShiftNat, hbit, h, if_true]
    calc ((acc <<< 1) ^^^ Config.specParams.crcPoly).toNat
      _ = trunc8 (acc.toNat <<< 1) ^^^ 0x31 := by
        rw [BitVec.toNat_xor, toNat_shiftLeft_one]
        rfl
      _ = trunc8 ((acc.toNat <<< 1) ^^^ 0x31) := (trunc8_xor_poly _).symm

/-- One data byte on naturals: the XOR, then eight shifts that each commute with reading the value. -/
theorem toNat_crcByte (acc d : Byte) :
    (crcByte Config.specParams.crcPoly acc d).toNat =
      crcShiftNat^[8] (acc.toNat ^^^ d.toNat) := by
  rw [crcByte, (semiconj_toNat_crcShift.iterate_right 8).eq, BitVec.toNat_xor]

theorem toNat_crc8 (data : List Byte) :
    (crc8 Config.specParams data).toNat = crc8Nat (data.map BitVec.toNat) := by
  rw [crc8Nat, List.foldl_map]
  exact (List.foldl_hom BitVec.toNat fun acc d => (toNat_crcByte acc d).symm).symm

/-- Settles O39: the fold on bytes is the fold on naturals, byte by byte and shift by shift. -/
theorem crcIsTheSpecAlgorithm : Obligations.CrcIsTheSpecAlgorithm :=
  ⟨toNat_crc8, rfl, fun acc => trunc8_xor_poly (acc <<< 1)⟩

end Sys2Proof.CrcValidator

/-! PROOFS. The exceptions: what a fault and a refusal leave, that a step faults exactly at a row of
the fault table, and the order of the checks of one command (60_exceptions R164 to R166). -/

namespace Sys2Proof.Exceptions

open Sys2Proof.Machine Sys2Proof.Laws Sys2Proof.Responses Sys2Proof.LineDriver
open Sys2Proof.BusEngine Sys2Proof.Refusals

/-! ### The fault table (R164) -/

/-- The two rows of the fault table: a bus command before both lines are configured, and a LINE_READ
of a line that was never configured. -/
def FaultTableRow (i : Instr) (s : State) (r : FaultReason) : Prop :=
  (NeedsConfiguredLines i s ∧ (s.drvSda = .unconfigured ∨ s.drvScl = .unconfigured) ∧
    r = .notInitialised) ∨
  ∃ p, i = .lineRead p ∧ driver p s = .unconfigured ∧ r = .readUnconfigured

theorem bothConfigured_eq_false_iff (s : State) :
    bothConfigured s = false ↔ s.drvSda = .unconfigured ∨ s.drvScl = .unconfigured := by
  rw [← Bool.not_eq_true, bothConfigured_iff, not_and_or, not_ne_iff, not_ne_iff]

theorem faultTableRow_of_preconditionFault {i : Instr} {s : State} {r : FaultReason}
    (h : preconditionFault i s = some r) : FaultTableRow i s r := by
  have bus (hi : NeedsConfiguredLines i s) : FaultTableRow i s r := by
    obtain ⟨hc, rfl⟩ : bothConfigured s = false ∧ .notInitialised = r := by
      simpa [hi.preconditionFault_eq] using h
    exact .inl ⟨hi, (bothConfigured_eq_false_iff s).mp hc, rfl⟩
  cases i with
  | start =>
    cases hp : s.params.startPrerelease with
    | true => simp [preconditionFault, hp] at h
    | false => exact bus (.inr (.inr (.inr ⟨rfl, hp⟩)))
  | stop => exact bus (.inl rfl)
  | write d => exact bus (needsConfiguredLines_write d s)
  | read a => exact bus (needsConfiguredLines_read a s)
  | lineRead p =>
    obtain ⟨hc, rfl⟩ : configured p s = false ∧ .readUnconfigured = r := by
      simpa [preconditionFault] using h
    exact .inr ⟨p, rfl, by simpa [configured] using hc, rfl⟩
  | init | crcchk | lineLow | lineRelease | delay => cases h

theorem preconditionFault_of_faultTableRow {i : Instr} {s : State} {r : FaultReason}
    (h : FaultTableRow i s r) : preconditionFault i s = some r := by
  obtain ⟨hi, hlines, rfl⟩ | ⟨p, rfl, hp, rfl⟩ := h
  · simp [hi.preconditionFault_eq, (bothConfigured_eq_false_iff s).mpr hlines]
  · simp [preconditionFault, configured_eq_false hp]

/-! ### The faults of a step -/

/-- The state a fault of command `i` leaves: the mark at the command's position, and the position
past the command's bytes (log 5). -/
def faultedState (i : Instr) (r : FaultReason) (s : State) : State :=
  advance (instrLength i) (markFault r s)

theorem step_of_command {s : State} (hf : s.fault = none) (hr : s.refused = none) {i : Instr}
    {rest : List Byte} (h : fetch s = .command i rest) : step s = afterExec i (exec i s) := by
  rw [step_of_unmarked hf hr, h]

theorem step_of_preconditionFault {s : State} (hf : s.fault = none) (hr : s.refused = none)
    {i : Instr} {rest : List Byte} (h : fetch s = .command i rest) {r : FaultReason}
    (hi : preconditionFault i s = some r) : step s = .fault (faultOf r (faultedState i r s)) := by
  rw [step_of_command hf hr h, exec_of_preconditionFault hi, afterExec_fault, advanceFault_faultOf,
    faultedState]

/-- A step of an unmarked block faults only by the precondition of the command it decodes. -/
theorem preconditionFault_of_step_fault {s : State} (hf : s.fault = none) (hr : s.refused = none)
    {f : Fault} (h : step s = .fault f) :
    ∃ i rest r, fetch s = .command i rest ∧ preconditionFault i s = some r := by
  rw [step_of_unmarked hf hr] at h
  cases hfetch : fetch s with
  | nothing => simp [hfetch] at h
  | refuse r => simp [hfetch] at h
  | command i rest =>
    obtain ⟨-, he⟩ | ⟨r, hi, -⟩ := exec_cases i s
    · simp [hfetch, he] at h
    · exact ⟨i, rest, r, rfl, hi⟩

/-- A block with a mark has not ended normally (R193). -/
theorem endedNormally_of_marked {s : State} (h : marked s = true) : endedNormally s = false := by
  simp [endedNormally, h]

/-- A faulted block answers its fault again, whatever is presented next. -/
theorem step_present_faultedState (i : Instr) (r : FaultReason) (s : State) (bytes : List Byte) :
    step (present bytes (faultedState i r s)) =
      .fault (faultOf r (present bytes (faultedState i r s))) :=
  step_of_fault (s := present bytes (faultedState i r s)) (m := ⟨r, s.k⟩) rfl

/-- Settles O18: a row of the table is the precondition fault of its command, and no step faults
otherwise. -/
theorem faultIsMarkedAndSticky : Obligations.FaultIsMarkedAndSticky := by
  refine ⟨fun s i rest r hf hr hfetch hrow => ?faults, fun s f hf hr hstep => ?onlyAtARow⟩
  case faults =>
    have hi : preconditionFault i s = some r := preconditionFault_of_faultTableRow hrow
    exact ⟨faultedState i r s, step_of_preconditionFault hf hr hfetch hi, rfl, hr, rfl, rfl, rfl,
      rfl, endedNormally_of_marked rfl, step_present_faultedState i r s⟩
  case onlyAtARow =>
    obtain ⟨i, rest, r, hfetch, hi⟩ := preconditionFault_of_step_fault hf hr hstep
    refine ⟨i, rest, hfetch, ?_⟩
    obtain ⟨hneeds, hlines, -⟩ | ⟨p, hp, hline, -⟩ := faultTableRow_of_preconditionFault hi
    · exact .inl ⟨hneeds, hlines⟩
    · exact .inr ⟨p, hp, hline⟩

/-! ### What a refusal leaves (R165) -/

/-- Settles O21: the only refusal is the decoder's, which marks the block and does nothing else. -/
theorem refusalIsMarkedAndSticky : Obligations.RefusalIsMarkedAndSticky := by
  intro s q hf hr hstep
  obtain ⟨reason, -, rfl⟩ := (step_eq_refused_iff hf hr).mp hstep
  exact ⟨reason, refusalState_refusalOf reason (markRefused reason s),
    step_present_markRefused hf reason⟩

/-! ### What a completed command leaves unchanged -/

/-- The line events of a command change the drivers, the trace and the answers, and nothing else. -/
theorem effect_frame (i : Instr) (s : State) : ∃ drvSda drvScl trace answers, effect i s =
    { s with drvSda := drvSda, drvScl := drvScl, trace := trace, answers := answers } := by
  cases i with
  | start =>
    cases hp : s.params.startPrerelease <;> simp only [effect, hp] <;> exact ⟨_, _, _, _, rfl⟩
  | write d =>
    obtain ⟨v, hv⟩ := effect_write d s
    exact ⟨_, _, _, _, hv⟩
  | read a => exact ⟨_, _, _, _, effect_read a s⟩
  | lineRead p =>
    by_cases h : driver p s = .drivenLow
    · exact ⟨_, _, _, _, congrArg Prod.snd (sample_of_drivenLow h)⟩
    · exact ⟨_, _, _, _, congrArg Prod.snd (sample_of_not_drivenLow h)⟩
  | lineLow p | lineRelease p => cases p <;> exact ⟨_, _, _, _, rfl⟩
  | init | stop | crcchk | delay => exact ⟨_, _, _, _, rfl⟩

@[simp] theorem effect_fault (i : Instr) (s : State) : (effect i s).fault = s.fault := by
  obtain ⟨_, _, _, _, h⟩ := effect_frame i s
  rw [h]

@[simp] theorem effect_refused (i : Instr) (s : State) : (effect i s).refused = s.refused := by
  obtain ⟨_, _, _, _, h⟩ := effect_frame i s
  rw [h]

/-- The state command `i` leaves when it completes, the position past its bytes (R32). -/
def completedState (i : Instr) (s : State) : State :=
  advance (instrLength i) (respond (responseOf i s) (effect i s))

theorem step_of_no_preconditionFault {s : State} (hf : s.fault = none) (hr : s.refused = none)
    {i : Instr} {rest : List Byte} (h : fetch s = .command i rest)
    (hi : preconditionFault i s = none) : step s = .next (completedState i s) := by
  rw [step_of_command hf hr h, exec_of_no_preconditionFault hi, afterExec_next, completedState]

@[simp] theorem completedState_fault (i : Instr) (s : State) :
    (completedState i s).fault = s.fault := by
  simp [completedState]

@[simp] theorem completedState_refused (i : Instr) (s : State) :
    (completedState i s).refused = s.refused := by
  simp [completedState]

@[simp] theorem completedState_responses (i : Instr) (s : State) :
    (completedState i s).responses = s.responses ++ [responseOf i s] := by
  simp [completedState]

/-! ### The order of the checks (R166) -/

/-- Settles O22: the decoder checks the opcode byte before the operand bytes, and only a command it
has decoded whole meets its precondition. -/
theorem checksHaveTheirPriority : Obligations.ChecksHaveTheirPriority := by
  intro s op rest hf hr hbytes
  have hfetch : fetch s = decode (op :: rest) := by rw [fetch, remaining, hbytes]
  refine ⟨fun hrow => ?illegal, fun row hrow => ?legal⟩
  case illegal => exact ⟨_, step_of_refuse hf hr (hfetch.trans (decode_illegal hrow rest))⟩
  case legal =>
    have hfetch : fetch s = decodeRow row (op :: rest) := hfetch.trans (decode_legal hrow rest)
    refine ⟨fun hshort => ?truncated, fun n i hlen hn hi => ?whole⟩
    case truncated =>
      exact ⟨_, step_of_refuse hf hr (hfetch.trans (decodeRow_eq_refuse_iff.mpr ⟨rfl, hshort⟩))⟩
    case whole =>
      have hcommand : fetch s = .command i ((op :: rest).drop n) := by
        rw [hfetch, decodeRow_of_length hlen hn, hi]
      exact ⟨fun r hfault => ⟨_, step_of_preconditionFault hf hr hcommand hfault⟩,
        fun hnone => ⟨completedState i s, responseOf i s,
          step_of_no_preconditionFault hf hr hcommand hnone, by simpa using hf, by simpa using hr,
          completedState_responses i s⟩⟩

end Sys2Proof.Exceptions

/-! PROOFS. The command encoding: the decoder and the encoder undo each other on every command, on
every byte sequence and on whole programs (30_encoding sections 1 to 4). -/

namespace Sys2Proof.Codec

open Sys2Proof.Machine Sys2Proof.Laws Sys2Proof.LineDriver Sys2Proof.BusEngine
open Sys2Proof.CrcValidator Sys2Proof.Refusals

/-! ### Decoding an encoded command -/

theorem decode_encode_init (rest : List Byte) :
    decode (encode .init ++ rest) = .command .init rest :=
  decode_of_f0 (row := ⟨.init, 0x10, 0xFF, .f0⟩) rfl rfl rest

theorem decode_encode_start (rest : List Byte) :
    decode (encode .start ++ rest) = .command .start rest :=
  decode_of_f0 (row := ⟨.start, 0x20, 0xFF, .f0⟩) rfl rfl rest

theorem decode_encode_stop (rest : List Byte) :
    decode (encode .stop ++ rest) = .command .stop rest :=
  decode_of_f0 (row := ⟨.stop, 0x30, 0xFF, .f0⟩) rfl rfl rest

theorem decode_encode_lineLow (p : Line) (rest : List Byte) :
    decode (encode (.lineLow p) ++ rest) = .command (.lineLow p) rest := by
  have hrow : lookupRow (0x70 ||| byteOfBit (bitOfLine p)) =
      some ⟨.lineLow, 0x70, 0xFE, .f0⟩ := by cases p <;> rfl
  refine (decode_of_f0 hrow rfl rest).trans ?_
  rw [instrOf, byteAt_zero, lineOfBit_bitOf_or rfl]

theorem decode_encode_delay (n : Count) (rest : List Byte) :
    decode (encode (.delay n) ++ rest) = .command (.delay n) rest :=
  (decode_delay (countHigh n) (countLow n) rest).trans (by rw [countOfBytes_high_low])

theorem decode_encode_crcchk {data : List Byte} (h : data.length ≤ maxCrcData) (c : Byte)
    (rest : List Byte) :
    decode (encode (.crcchk data c) ++ rest) = .command (.crcchk data c) rest := by
  simpa [encode] using decode_crcchk h c rest

theorem decode_encode {i : Instr} (h : wellFormed i = true) (rest : List Byte) :
    decode (encode i ++ rest) = .command i rest := by
  cases i with
  | init => exact decode_encode_init rest
  | start => exact decode_encode_start rest
  | stop => exact decode_encode_stop rest
  | write d => exact decode_write d rest
  | read a => exact decode_encode_read a rest
  | crcchk data c => exact decode_encode_crcchk (of_decide_eq_true h) c rest
  | lineLow p => exact decode_encode_lineLow p rest
  | lineRelease p => exact decode_encode_lineRelease p rest
  | lineRead p => exact decode_encode_lineRead p rest
  | delay n => exact decode_encode_delay n rest

/-- Settles O43: each row reads back the fields its encoding wrote. -/
theorem decodeOfEncode : Obligations.DecodeOfEncode := fun _ rest h => decode_encode h rest

/-- Settles O42: each word is the encoding of its command, the bytes after it left. -/
theorem writtenWordsDecode : Obligations.WrittenWordsDecode :=
  ⟨decode_encode_init [], decode_encode_start [], decode_encode_stop [], decode_write 0x10 [],
    decode_encode_read .noAck [0x10],
    decode_encode_crcchk (data := [0x66, 0x4C]) (by decide) 0x4F [],
    decode_encode_lineLow .scl [], decode_encode_lineRelease .sda [],
    decode_encode_lineRead .scl [], decode_encode_delay 1000 []⟩

/-! ### Encoding a decoded command -/

@[simp] theorem countHigh_countOfBytes (nh nl : Byte) : countHigh (countOfBytes nh nl) = nh := by
  apply BitVec.eq_of_toNat_eq
  have hl := nl.isLt
  have hh := nh.isLt
  rw [countHigh, BitVec.extractLsb'_toNat, countOfBytes_toNat, Nat.shiftRight_eq_div_pow]
  omega

@[simp] theorem countLow_countOfBytes (nh nl : Byte) : countLow (countOfBytes nh nl) = nl := by
  apply BitVec.eq_of_toNat_eq
  have hl := nl.isLt
  rw [countLow, BitVec.extractLsb'_toNat, countOfBytes_toNat, Nat.shiftRight_eq_div_pow]
  omega

/-- These bytes begin with the encoding of a command. -/
def BeginsWithCommand (bytes : List Byte) : Prop :=
  ∃ i rest, wellFormed i = true ∧ bytes = encode i ++ rest

/-- The length byte says how the bytes after it divide into data and checksum (R67). -/
theorem beginsWithCommand_crcchk {n : Byte} {operands : List Byte}
    (h : n.toNat < operands.length) : BeginsWithCommand (0x60 :: n :: operands) := by
  have hn := n.isLt
  have hlen : (operands.take n.toNat).length = n.toNat := List.length_take_of_le h.le
  refine ⟨.crcchk (operands.take n.toNat) operands[n.toNat], operands.drop (n.toNat + 1), ?fits,
    ?bytes⟩
  case fits => exact decide_eq_true (by rw [hlen, maxCrcData]; omega)
  case bytes => simp [encode, hlen]

/-- A legal opcode byte begins a command unless the bytes end inside it. -/
theorem beginsWithCommand_of_mem {op : Byte} {operands : List Byte} (hop : op ∈ legalOpcodes)
    (hends : ¬ EndsInsideCommand (op :: operands)) : BeginsWithCommand (op :: operands) := by
  simp only [legalOpcodes, List.mem_cons, List.not_mem_nil, or_false] at hop
  obtain rfl | rfl | rfl | rfl | rfl | rfl | rfl | rfl | rfl | rfl | rfl | rfl | rfl | rfl := hop
  · exact ⟨.init, operands, rfl, rfl⟩
  · exact ⟨.start, operands, rfl, rfl⟩
  · exact ⟨.stop, operands, rfl, rfl⟩
  · match operands with
    | [] => exact absurd (.inl rfl) hends
    | d :: rest => exact ⟨.write d, rest, rfl, rfl⟩
  · exact ⟨.read .ack, operands, rfl, rfl⟩
  · exact ⟨.read .noAck, operands, rfl, rfl⟩
  · match operands with
    | [] => exact absurd (.inr (.inr (.inr (.inl rfl)))) hends
    | n :: operands =>
      by_cases h : n.toNat < operands.length
      · exact beginsWithCommand_crcchk h
      · exact absurd (.inr (.inr (.inr (.inr ⟨n, operands, rfl, by omega⟩)))) hends
  · exact ⟨.lineLow .sda, operands, rfl, rfl⟩
  · exact ⟨.lineLow .scl, operands, rfl, rfl⟩
  · exact ⟨.lineRelease .sda, operands, rfl, rfl⟩
  · exact ⟨.lineRelease .scl, operands, rfl, rfl⟩
  · exact ⟨.lineRead .sda, operands, rfl, rfl⟩
  · exact ⟨.lineRead .scl, operands, rfl, rfl⟩
  · match operands with
    | [] => exact absurd (.inr (.inl rfl)) hends
    | [nh] => exact absurd (.inr (.inr (.inl ⟨nh, rfl⟩))) hends
    | nh :: nl :: rest => exact ⟨.delay (countOfBytes nh nl), rest, rfl, by simp [encode]⟩

/-- Everything a byte sequence can be to the decoder. -/
theorem bytes_cases (bytes : List Byte) :
    bytes = [] ∨ (∃ r, decode bytes = .refuse r) ∨ BeginsWithCommand bytes := by
  match bytes with
  | [] => exact .inl rfl
  | op :: operands =>
    by_cases hop : op ∈ legalOpcodes
    · by_cases hends : EndsInsideCommand (op :: operands)
      · exact .inr (.inl ⟨_, decode_of_endsInsideCommand hends⟩)
      · exact .inr (.inr (beginsWithCommand_of_mem hop hends))
    · exact .inr (.inl ⟨_, decode_illegal_of_not_mem hop operands⟩)

/-- What decodes to a command is the encoding of that command and what is left. -/
theorem decode_eq_command_iff {bytes : List Byte} {i : Instr} {rest : List Byte} :
    decode bytes = .command i rest ↔ wellFormed i = true ∧ bytes = encode i ++ rest := by
  refine ⟨fun h => ?_, fun ⟨hi, hbytes⟩ => hbytes ▸ decode_encode hi rest⟩
  obtain rfl | ⟨r, hr⟩ | ⟨i', rest', hi, rfl⟩ := bytes_cases bytes
  · cases h
  · rw [hr] at h
    cases h
  · rw [decode_encode hi] at h
    cases h
    exact ⟨hi, rfl⟩

theorem encodeLength_statement (i : Instr) : EncodeLength.Statement i := by
  cases i with
  | init => exact EncodeLength.init
  | start => exact EncodeLength.start
  | stop => exact EncodeLength.stop
  | write d => exact EncodeLength.write d
  | read a => exact EncodeLength.read a
  | crcchk data c => exact EncodeLength.crcchk data c
  | lineLow p => exact EncodeLength.lineLow p
  | lineRelease p => exact EncodeLength.lineRelease p
  | lineRead p => exact EncodeLength.lineRead p
  | delay n => exact EncodeLength.delay n

theorem length_encode {i : Instr} (h : wellFormed i = true) :
    (encode i).length = instrLength i :=
  (encodeLength_statement i h).1

theorem one_le_instrLength {i : Instr} (h : wellFormed i = true) : 1 ≤ instrLength i :=
  (encodeLength_statement i h).2.1

/-- Settles O44: only a well-formed encoding decodes to a command, and its length is the
command's. -/
theorem encodeOfDecode : Obligations.EncodeOfDecode := by
  intro bytes i rest h
  obtain ⟨hi, rfl⟩ := decode_eq_command_iff.mp h
  exact ⟨hi, rfl, by rw [List.length_append, length_encode hi]⟩

/-! ### Whole programs (R73) -/

@[simp] theorem encodeProgram_nil : encodeProgram [] = [] := rfl

@[simp] theorem encodeProgram_cons (i : Instr) (is : List Instr) :
    encodeProgram (i :: is) = encode i ++ encodeProgram is := List.flatMap_cons

/-- `(is, r)` accounts for all of `bytes`, which stand at position `pos` of the program: the
commands are its beginning, and what is left is empty or what the decoder refuses with reason and
position `r`. -/
def AccountsFor (pos : Nat) (bytes : List Byte) (is : List Instr)
    (r : Option (RefusalReason × Nat)) : Prop :=
  ∃ rest, bytes = encodeProgram is ++ rest ∧ (∀ i ∈ is, wellFormed i = true) ∧
    (r = none → rest = []) ∧
    ∀ reason p, r = some (reason, p) →
      p = pos + (encodeProgram is).length ∧ decode rest = .refuse reason

theorem AccountsFor.nil (pos : Nat) : AccountsFor pos [] [] none :=
  ⟨[], rfl, by simp, fun _ => rfl, fun _ _ h => by cases h⟩

theorem AccountsFor.refuse {bytes : List Byte} {reason : RefusalReason}
    (h : decode bytes = .refuse reason) (pos : Nat) :
    AccountsFor pos bytes [] (some (reason, pos)) := by
  refine ⟨bytes, rfl, by simp, by simp, fun reason' p hr => ?_⟩
  cases hr
  exact ⟨rfl, h⟩

theorem AccountsFor.cons {pos : Nat} {bytes : List Byte} {i : Instr} {is : List Instr}
    {r : Option (RefusalReason × Nat)} (hi : wellFormed i = true)
    (h : AccountsFor (pos + (encode i).length) bytes is r) :
    AccountsFor pos (encode i ++ bytes) (i :: is) r := by
  obtain ⟨rest, rfl, his, hnone, hsome⟩ := h
  refine ⟨rest, by simp, by simpa [hi] using his, hnone, fun reason p hr => ?_⟩
  obtain ⟨rfl, hrefuse⟩ := hsome reason p hr
  exact ⟨by simp; omega, hrefuse⟩

/-- With fuel for every byte, the program decoder accounts for all of them: each command takes at
least one byte, so the fuel lasts. -/
theorem accountsFor_decodeProgramFrom (fuel pos : Nat) (bytes : List Byte)
    (hfuel : bytes.length ≤ fuel) :
    AccountsFor pos bytes (decodeProgramFrom fuel pos bytes).1
      (decodeProgramFrom fuel pos bytes).2 := by
  induction fuel generalizing pos bytes with
  | zero =>
    obtain rfl : bytes = [] := by simpa using hfuel
    exact AccountsFor.nil pos
  | succ fuel ih =>
    obtain rfl | ⟨r, hr⟩ | ⟨i, rest, hi, rfl⟩ := bytes_cases bytes
    · exact AccountsFor.nil pos
    · simp only [decodeProgramFrom, hr]
      exact AccountsFor.refuse hr pos
    · have hlen : rest.length ≤ fuel := by
        have hone := one_le_instrLength hi
        rw [List.length_append, length_encode hi] at hfuel
        omega
      simp only [decodeProgramFrom, decode_encode hi, List.length_append, Nat.add_sub_cancel]
      exact (ih _ rest hlen).cons hi

theorem accountsFor_of_decodeProgram {bytes : List Byte} {is : List Instr}
    {r : Option (RefusalReason × Nat)} (h : decodeProgram bytes = (is, r)) :
    AccountsFor 0 bytes is r := by
  have hall := accountsFor_decodeProgramFrom bytes.length 0 bytes le_rfl
  rwa [← decodeProgram, h] at hall

/-- Settles O45: at position 0 the program decoder accounts for every byte. -/
theorem programDecodingIsTotal : Obligations.ProgramDecodingIsTotal := by
  intro bytes is r h
  obtain ⟨rest, hbytes, his, hnone, hsome⟩ := accountsFor_of_decodeProgram h
  exact ⟨rest, hbytes, his, hnone, by simpa using hsome⟩

end Sys2Proof.Codec

/-! PROOFS. Steps: everything one step can do, said once, and what every step keeps (10_state
sections 1 to 6); later bytes do not change the command at hand, and a run executes the decoding of
its stream (30_encoding sections 2 and 4). -/

namespace Sys2Proof.Steps

open Sys2Proof.Machine Sys2Proof.Laws Sys2Proof.Responses Sys2Proof.BusEngine
open Sys2Proof.Exceptions Sys2Proof.Refusals Sys2Proof.Codec

/-! ### Everything a step can do -/

/-- The ways a step can go, by the marks, by what the decoder finds, and by the precondition of the
command it finds. -/
inductive StepCase (s : State) : Host.Outcome State Fault Refusal → Prop where
  | faulted {m : FaultMark} (hf : s.fault = some m) : StepCase s (.fault (faultOf m.reason s))
  | refused {m : RefusalMark} (hf : s.fault = none) (hr : s.refused = some m) :
      StepCase s (.refused (refusalOf m.reason s))
  | waits (hf : s.fault = none) (hr : s.refused = none) (h : fetch s = .nothing) :
      StepCase s (.next s)
  | refuses {r : RefusalReason} (hf : s.fault = none) (hr : s.refused = none)
      (h : fetch s = .refuse r) : StepCase s (.refused (refusalOf r (markRefused r s)))
  | completes {i : Instr} {rest : List Byte} (hf : s.fault = none) (hr : s.refused = none)
      (h : fetch s = .command i rest) (hi : preconditionFault i s = none) :
      StepCase s (.next (completedState i s))
  | faults {i : Instr} {rest : List Byte} {r : FaultReason} (hf : s.fault = none)
      (hr : s.refused = none) (h : fetch s = .command i rest)
      (hi : preconditionFault i s = some r) : StepCase s (.fault (faultOf r (faultedState i r s)))

theorem stepCase (s : State) : StepCase s (step s) := by
  cases hf : s.fault with
  | some m => exact step_of_fault hf ▸ .faulted hf
  | none =>
    cases hr : s.refused with
    | some m => exact step_of_refused hf hr ▸ .refused hf hr
    | none =>
      cases h : fetch s with
      | nothing =>
        have hstep : step s = .next s := by rw [step_of_unmarked hf hr, h]
        exact hstep ▸ .waits hf hr h
      | refuse r => exact step_of_refuse hf hr h ▸ .refuses hf hr h
      | command i rest =>
        cases hi : preconditionFault i s with
        | none => exact step_of_no_preconditionFault hf hr h hi ▸ .completes hf hr h hi
        | some r => exact step_of_preconditionFault hf hr h hi ▸ .faults hf hr h hi

@[simp] theorem stateAfter_next (s : State) : stateAfter (.next s) = some s := rfl

@[simp] theorem stateAfter_fault (r : FaultReason) (s : State) :
    stateAfter (.fault (faultOf r s)) = some s := congrArg some (faultState_faultOf r s)

@[simp] theorem stateAfter_refused (r : RefusalReason) (s : State) :
    stateAfter (.refused (refusalOf r s)) = some s := refusalState_refusalOf r s

/-- What holds of the state itself, of its refusals, of its completed commands and of its faulted
ones holds of the state a step leaves, whatever the step ends in. -/
theorem stateAfter_step_rec {P : State → Prop} {s t : State} (h : stateAfter (step s) = some t)
    (same : P s)
    (refuses : ∀ r, s.fault = none → s.refused = none → fetch s = .refuse r → P (markRefused r s))
    (completes : ∀ i rest, s.fault = none → s.refused = none → fetch s = .command i rest →
      preconditionFault i s = none → P (completedState i s))
    (faults : ∀ i rest r, s.fault = none → s.refused = none → fetch s = .command i rest →
      preconditionFault i s = some r → P (faultedState i r s)) : P t := by
  have hcase := stepCase s
  generalize step s = o at h hcase
  cases hcase with
  | faulted | refused | waits =>
    obtain rfl : s = t := by simpa using h
    exact same
  | refuses hf hr hfetch =>
    obtain rfl : markRefused _ s = t := by simpa using h
    exact refuses _ hf hr hfetch
  | completes hf hr hfetch hi =>
    obtain rfl : completedState _ s = t := by simpa using h
    exact completes _ _ hf hr hfetch hi
  | faults hf hr hfetch hi =>
    obtain rfl : faultedState _ _ s = t := by simpa using h
    exact faults _ _ _ hf hr hfetch hi

/-! ### The fields of the state a command leaves -/

@[simp] theorem effect_params (i : Instr) (s : State) : (effect i s).params = s.params := by
  obtain ⟨_, _, _, _, h⟩ := effect_frame i s
  rw [h]

@[simp] theorem effect_stream (i : Instr) (s : State) : (effect i s).stream = s.stream := by
  obtain ⟨_, _, _, _, h⟩ := effect_frame i s
  rw [h]

@[simp] theorem effect_k (i : Instr) (s : State) : (effect i s).k = s.k := by
  obtain ⟨_, _, _, _, h⟩ := effect_frame i s
  rw [h]

/-- A command uses the environment's answers from the first one on. -/
theorem effect_answers (i : Instr) (s : State) : ∃ n, (effect i s).answers = s.answers.drop n := by
  cases i with
  | start => exact ⟨0, by cases hp : s.params.startPrerelease <;>
      simp [effect, hp, startSequence, startPrerelease]⟩
  | write d =>
    obtain ⟨v, hv⟩ := effect_write d s
    exact ⟨1, by simp [hv]⟩
  | read a => exact ⟨8, by rw [effect_read]⟩
  | lineRead p =>
    by_cases h : driver p s = .drivenLow
    · exact ⟨0, by simp [effect, sample_of_drivenLow h]⟩
    · exact ⟨1, by simp [effect, sample_of_not_drivenLow h]⟩
  | init | stop | crcchk | lineLow | lineRelease | delay =>
    exact ⟨0, by simp [effect, stopSequence]⟩

@[simp] theorem linesOf_completedState (i : Instr) (s : State) :
    linesOf (completedState i s) = linesOf (effect i s) := rfl

@[simp] theorem completedState_params (i : Instr) (s : State) :
    (completedState i s).params = s.params := effect_params i s

@[simp] theorem completedState_stream (i : Instr) (s : State) :
    (completedState i s).stream = s.stream := effect_stream i s

@[simp] theorem completedState_k (i : Instr) (s : State) :
    (completedState i s).k = s.k + instrLength i := by
  simp [completedState]

/-! ### One step of an unmarked block (10_state R24, R25, R32) -/

theorem marked_eq_false_iff (s : State) : marked s = false ↔ s.fault = none ∧ s.refused = none := by
  simp [marked]

theorem step_of_nothing {s : State} (hf : s.fault = none) (hr : s.refused = none)
    (h : fetch s = .nothing) : step s = .next s := by
  rw [step_of_unmarked hf hr, h]

theorem marked_completedState (i : Instr) (s : State) : marked (completedState i s) = marked s := by
  simp [marked]

/-- A step that ends in a next state starts and ends without a mark. -/
theorem marked_of_step_next {s t : State} (h : step s = .next t) :
    marked s = false ∧ marked t = false := by
  have hcase := stepCase s
  rw [h] at hcase
  cases hcase with
  | waits hf hr =>
    have hs := (marked_eq_false_iff s).mpr ⟨hf, hr⟩
    exact ⟨hs, hs⟩
  | completes hf hr =>
    have hs := (marked_eq_false_iff s).mpr ⟨hf, hr⟩
    exact ⟨hs, (marked_completedState _ s).trans hs⟩

/-- Settles O23: a marked block answers its mark, and a completed command sets none. -/
theorem markedBlockTakesNoStep : Obligations.MarkedBlockTakesNoStep := by
  refine ⟨rfl, rfl, fun s m hf => ⟨step_of_fault hf, ?faultReasons⟩,
    fun s m hf hr => ⟨step_of_refused hf hr, ?refusalReasons⟩, fun s t => marked_of_step_next⟩
  case faultReasons => cases m.reason <;> simp
  case refusalReasons => cases m.reason <;> simp

/-- Settles O24: after exec only the position moves, in a next state and in a fault's. -/
theorem stepRunsTheDecodedCommand : Obligations.StepRunsTheDecodedCommand := by
  intro s i rest hf hr h
  have hstep : step s = afterExec i (exec i s) := step_of_command hf hr h
  refine ⟨fun t ht => ?_, fun t ht => ?_, fun t ht => ?_, fun r hrefused => ?_⟩
  · rw [hstep, ht]
    rfl
  · rw [hstep, ht]
    rfl
  · rw [hstep, ht]
    rfl
  · obtain ⟨-, he⟩ | ⟨_, -, he⟩ := exec_cases i s <;> rw [he] at hrefused <;> cases hrefused

/-! ### The history is append-only (20_memory R47, R49) -/

/-- `t` has all of the history of `s` and at most one response more, and the stream and the
parameters of `s`. -/
def ExtendsHistory (s t : State) : Prop :=
  (∃ es, t.trace = s.trace ++ es) ∧ (∃ rs, t.responses = s.responses ++ rs ∧ rs.length ≤ 1) ∧
  (∃ n, t.answers = s.answers.drop n) ∧ s.k ≤ t.k ∧ t.stream = s.stream ∧ t.params = s.params

/-- A state with the same history extends it. -/
theorem extendsHistory_of_eq {s t : State} (htrace : t.trace = s.trace)
    (hresponses : t.responses = s.responses) (hanswers : t.answers = s.answers) (hk : s.k ≤ t.k)
    (hstream : t.stream = s.stream) (hparams : t.params = s.params) : ExtendsHistory s t :=
  ⟨⟨[], by simp [htrace]⟩, ⟨[], by simp [hresponses]⟩, ⟨0, by simp [hanswers]⟩, hk, hstream,
    hparams⟩

theorem extendsHistory_completedState (i : Instr) (s : State) :
    ExtendsHistory s (completedState i s) := by
  obtain ⟨es, hes, -⟩ := effect_trace i s
  exact ⟨⟨es, hes⟩, ⟨[responseOf i s], completedState_responses i s, le_rfl⟩, effect_answers i s,
    by simp, completedState_stream i s, completedState_params i s⟩

theorem extendsHistory_of_step {s t : State} (h : stateAfter (step s) = some t) :
    ExtendsHistory s t := by
  refine stateAfter_step_rec h ?same (fun r _ _ _ => ?refuses)
    (fun i _ _ _ _ _ => extendsHistory_completedState i s) (fun i _ r _ _ _ _ => ?faults)
  case same => exact extendsHistory_of_eq rfl rfl rfl le_rfl rfl rfl
  case refuses => exact extendsHistory_of_eq rfl rfl rfl le_rfl rfl rfl
  case faults => exact extendsHistory_of_eq rfl rfl rfl (Nat.le_add_right _ _) rfl rfl

/-- Settles O26: a completed command extends the history, a mark leaves it, and with nothing to
decode the step changes nothing. -/
theorem stepsOnlyAppendToTheHistory : Obligations.StepsOnlyAppendToTheHistory := by
  intro s t h
  obtain ⟨htrace, hresponses, hanswers, hk, hstream, hparams⟩ := extendsHistory_of_step h
  refine ⟨htrace, hresponses, hanswers, hk, hstream, hparams, fun hfetch hmarked => ?_⟩
  obtain ⟨hf, hr⟩ := (marked_eq_false_iff s).mp hmarked
  rw [step_of_nothing hf hr hfetch] at h
  simpa using h.symm

/-! ### Configured lines stay configured (10_state R21) -/

theorem driver_eq_lineDriver (p : Line) (s : State) : driver p s = lineDriver p (linesOf s) := by
  cases p <;> rfl

/-- An event leaves a line's driver as it is, or drives or releases it. -/
theorem lineDriver_linesAfter_ne_unconfigured {p : Line} {l : Lines}
    (h : lineDriver p l ≠ .unconfigured) (e : Event) :
    lineDriver p (linesAfter l e) ≠ .unconfigured := by
  cases e with
  | drive q | release q => cases p <;> cases q <;> simp_all [lineDriver, linesAfter]
  | sample q v | delay n => exact h

theorem lineDriver_replay_ne_unconfigured {p : Line} {l : Lines}
    (h : lineDriver p l ≠ .unconfigured) (es : List Event) :
    lineDriver p (replay l es) ≠ .unconfigured :=
  List.foldlRecOn (motive := fun l => lineDriver p l ≠ .unconfigured) es linesAfter h
    fun _ hl e _ => lineDriver_linesAfter_ne_unconfigured hl e

/-- Settles O27: only the events of a completed command write the drivers, and none unconfigures a
line. -/
theorem configuredLinesStayConfigured : Obligations.ConfiguredLinesStayConfigured := by
  intro s t p h hp
  rw [driver_eq_lineDriver] at hp ⊢
  refine stateAfter_step_rec (P := fun t => lineDriver p (linesOf t) ≠ .unconfigured) h hp
    (fun _ _ _ _ => hp) (fun i _ _ _ _ _ => ?completes) (fun _ _ _ _ _ _ _ => hp)
  case completes =>
    rw [linesOf_completedState, linesOf_effect]
    exact lineDriver_replay_ne_unconfigured hp _

/-! ### The bookkeeping (10_state sections 3, 5 and 6) -/

/-- Settles O30: nothing is recorded at power-on. -/
theorem bookkeepingInOrderAtPowerOn : Obligations.BookkeepingInOrderAtPowerOn :=
  ⟨le_rfl, le_rfl, .inl rfl, by simp [State.reset], by simp [State.reset], by simp [State.reset]⟩

/-- The mask of a WRITE or a CRCCHK is 0 or its one bit (R29); every other response may be any. -/
theorem responseAllowed_responseOf (i : Instr) (s : State) :
    responseAllowed (responseOf i s) = true := by
  cases i with
  | write d =>
    simp only [responseOf, writeMask]
    split <;> rfl
  | crcchk data c =>
    simp only [responseOf, crcMask]
    split <;> rfl
  | init | start | stop | read | lineLow | lineRelease | lineRead | delay => rfl

theorem length_remaining (s : State) : (remaining s).length = s.stream.length - s.k :=
  List.length_drop

/-- The bytes of a fetched command lie in the stream. -/
theorem k_add_instrLength_le {s : State} {i : Instr} {rest : List Byte}
    (h : fetch s = .command i rest) :
    1 ≤ instrLength i ∧ s.k + instrLength i ≤ s.stream.length := by
  obtain ⟨hi, -, hlen⟩ := encodeOfDecode _ _ _ h
  have hone := one_le_instrLength hi
  have hstream := length_remaining s
  exact ⟨hone, by omega⟩

/-- What the decoder refuses begins within the stream. -/
theorem k_lt_of_fetch_refuse {s : State} {r : RefusalReason} (h : fetch s = .refuse r) :
    s.k < s.stream.length := by
  by_contra hk
  have hnil : remaining s = [] := List.drop_eq_nil_of_le (Nat.le_of_not_lt hk)
  rw [fetch, hnil] at h
  cases h

theorem bookkeepingInOrder_completedState {s : State} {i : Instr} {rest : List Byte}
    (h : BookkeepingInOrder s) (hf : s.fault = none) (hr : s.refused = none)
    (hfetch : fetch s = .command i rest) : BookkeepingInOrder (completedState i s) := by
  obtain ⟨-, hcount, -, -, -, hallowed⟩ := h
  obtain ⟨hone, hk⟩ := k_add_instrLength_le hfetch
  refine ⟨by simpa using hk, ?_, by simp [hf], by simp [hf], by simp [hr], ?_⟩
  · rw [completedState_responses, completedState_k, List.length_append, List.length_singleton]
    omega
  · intro r hmem
    rw [completedState_responses, List.mem_append, List.mem_singleton] at hmem
    obtain hmem | rfl := hmem
    · exact hallowed r hmem
    · exact responseAllowed_responseOf i s

theorem bookkeepingInOrder_faultedState {s : State} {i : Instr} {rest : List Byte}
    (r : FaultReason) (h : BookkeepingInOrder s) (hr : s.refused = none)
    (hfetch : fetch s = .command i rest) : BookkeepingInOrder (faultedState i r s) := by
  obtain ⟨-, hcount, -, -, -, hallowed⟩ := h
  obtain ⟨hone, hk⟩ := k_add_instrLength_le hfetch
  have hcount' : s.responses.length ≤ s.k + instrLength i := hcount.trans (Nat.le_add_right _ _)
  refine ⟨hk, hcount', .inr hr, ?_, by simp [faultedState, hr], hallowed⟩
  simp only [faultedState, advance_fault, markFault_fault, Option.mem_def, Option.some.injEq,
    forall_eq', advance_k, markFault_k]
  omega

theorem bookkeepingInOrder_markRefused {s : State} {r : RefusalReason}
    (h : BookkeepingInOrder s) (hf : s.fault = none) (hfetch : fetch s = .refuse r) :
    BookkeepingInOrder (markRefused r s) := by
  obtain ⟨hk, hcount, -, -, -, hallowed⟩ := h
  exact ⟨hk, hcount, .inl hf, by simp [hf], by simpa using k_lt_of_fetch_refuse hfetch, hallowed⟩

/-- Settles O31: a completed command lies in the stream and gives one allowed response; a fault and
a refusal set one mark on an unmarked block. -/
theorem stepKeepsBookkeepingInOrder : Obligations.StepKeepsBookkeepingInOrder := by
  intro s t h hstep
  exact stateAfter_step_rec hstep h
    (fun r hf _ hfetch => bookkeepingInOrder_markRefused h hf hfetch)
    (fun i rest hf hr hfetch _ => bookkeepingInOrder_completedState h hf hr hfetch)
    (fun i rest r _ hr hfetch _ => bookkeepingInOrder_faultedState r h hr hfetch)

/-! ### The trace accounts for the drivers (10_state R21, R22, R26; 40_line_driver R83) -/

/-- Settles O28: no event has happened at power-on. -/
theorem traceConsistentAtPowerOn : Obligations.TraceConsistentAtPowerOn := ⟨rfl, rfl⟩

theorem replay_append (l : Lines) (es fs : List Event) :
    replay l (es ++ fs) = replay (replay l es) fs :=
  List.foldl_append

theorem samplesAllowed_append (l : Lines) (es fs : List Event) :
    samplesAllowed l (es ++ fs) = (samplesAllowed l es && samplesAllowed (replay l es) fs) := by
  induction es generalizing l with
  | nil => rfl
  | cons e es ih => simp [samplesAllowed, ih, replay, Bool.and_assoc]

/-- One more event keeps the trace consistent when it has its effect on the drivers and is, if a
sample, one the block can make. -/
theorem traceConsistent_of_concat {s t : State} {e : Event} (h : TraceConsistent s)
    (htrace : t.trace = s.trace ++ [e]) (hlines : linesOf t = linesAfter (linesOf s) e)
    (hallowed : sampleAllowed (linesOf s) e = true) : TraceConsistent t := by
  obtain ⟨hreplay, hsamples⟩ := h
  refine ⟨?_, ?_⟩
  · rw [htrace, replay_append, hreplay, hlines]
    rfl
  · rw [htrace, samplesAllowed_append, hreplay, hsamples]
    simpa [samplesAllowed] using hallowed

theorem traceConsistent_driveLow {s : State} (p : Line) (h : TraceConsistent s) :
    TraceConsistent (driveLow p s) :=
  traceConsistent_of_concat h (driveLow_trace p s) (by cases p <;> rfl) rfl

theorem traceConsistent_release {s : State} (p : Line) (h : TraceConsistent s) :
    TraceConsistent (release p s) :=
  traceConsistent_of_concat h (release_trace p s) (by cases p <;> rfl) rfl

theorem traceConsistent_delay {s : State} (n : Nat) (h : TraceConsistent s) :
    TraceConsistent (delay n s) :=
  traceConsistent_of_concat h (delay_trace n s) rfl rfl

/-- A sample of a configured line is one the block can make: it reads 0 where the block drives. -/
theorem traceConsistent_sample {s : State} {p : Line} (h : TraceConsistent s)
    (hp : driver p s ≠ .unconfigured) : TraceConsistent (sample p s).2 := by
  refine traceConsistent_of_concat h (sample_trace p s) (linesOf_sample p s) ?_
  rw [driver_eq_lineDriver] at hp
  by_cases hd : driver p s = .drivenLow
  · simp [sampleAllowed, hp, sample_of_drivenLow hd]
  · rw [driver_eq_lineDriver] at hd
    simp [sampleAllowed, hp, hd]

theorem traceConsistent_putSda {s : State} (b : Bit) (h : TraceConsistent s) :
    TraceConsistent (putSda b s) := by
  cases b with
  | false => exact traceConsistent_driveLow .sda h
  | true => exact traceConsistent_release .sda h

theorem traceConsistent_startSequence {s : State} (h : TraceConsistent s) :
    TraceConsistent (startSequence s) :=
  traceConsistent_delay _ <| traceConsistent_driveLow .scl <| traceConsistent_delay _ <|
    traceConsistent_driveLow .sda h

theorem traceConsistent_startPrerelease {s : State} (h : TraceConsistent s) :
    TraceConsistent (startPrerelease s) :=
  traceConsistent_release .scl <| traceConsistent_release .sda h

theorem traceConsistent_stopSequence {s : State} (h : TraceConsistent s) :
    TraceConsistent (stopSequence s) :=
  traceConsistent_delay _ <| traceConsistent_release .sda <| traceConsistent_delay _ <|
    traceConsistent_release .scl <| traceConsistent_driveLow .scl <| traceConsistent_driveLow .sda h

theorem traceConsistent_writeBit {s : State} (b : Bit) (h : TraceConsistent s) :
    TraceConsistent (writeBit s b) :=
  traceConsistent_delay _ <| traceConsistent_driveLow .scl <| traceConsistent_delay _ <|
    traceConsistent_release .scl <| traceConsistent_delay _ <| traceConsistent_putSda b h

theorem traceConsistent_writeBits {s : State} (d : Byte) (h : TraceConsistent s) :
    TraceConsistent (writeBits d s) :=
  List.foldlRecOn (motive := TraceConsistent) wireOrder _ h
    fun _ ht i _ => traceConsistent_writeBit (bitOf d i) ht

/-- The acknowledge clock of WRITE samples the SDA it released. -/
theorem traceConsistent_writeAck {s : State} (h : TraceConsistent s) :
    TraceConsistent (writeAck s).2 := by
  have hbefore : TraceConsistent (delay s.params.tWrAckSu (release .scl (release .sda s))) :=
    traceConsistent_delay _ <| traceConsistent_release .scl <| traceConsistent_release .sda h
  have hsample := traceConsistent_sample (p := .sda) hbefore (by simp)
  simp only [writeAck]
  exact traceConsistent_delay _ <| traceConsistent_driveLow .scl hsample

theorem traceConsistent_readBit {s : State} (h : TraceConsistent s) (hsda : s.drvSda = .released) :
    TraceConsistent (readBit s).2 := by
  have hbefore : TraceConsistent
      (delay s.params.tRdHigh (delay s.params.tRdSu (release .scl s))) :=
    traceConsistent_delay _ <| traceConsistent_delay _ <| traceConsistent_release .scl h
  have hsample := traceConsistent_sample (p := .sda) hbefore (by simp [hsda])
  simp only [readBit]
  exact traceConsistent_delay _ <| traceConsistent_driveLow .scl hsample

/-- READ's data clocks sample SDA, which stays released from one to the next. -/
theorem traceConsistent_readBits {s : State} (h : TraceConsistent s)
    (hsda : s.drvSda = .released) : TraceConsistent (readBits s).2 := by
  have hclocks : TraceConsistent (readBits s).2 ∧ (readBits s).2.drvSda = .released := by
    unfold readBits
    refine List.foldlRecOn
      (motive := fun bs : Byte × State => TraceConsistent bs.2 ∧ bs.2.drvSda = .released)
      wireOrder readInto ⟨h, hsda⟩ fun bs hbs i _ => ?_
    obtain ⟨ht, hrel⟩ := hbs
    have hclock := traceConsistent_readBit ht hrel
    exact ⟨hclock, by simp [readInto, readBit_eq_clockDraw hrel, afterReadClock, hrel]⟩
  exact hclocks.1

theorem traceConsistent_readAck {s : State} (a : Ack) (h : TraceConsistent s) :
    TraceConsistent (readAck a s) :=
  traceConsistent_delay _ <| traceConsistent_release .sda <| traceConsistent_driveLow .scl <|
    traceConsistent_delay _ <| traceConsistent_release .scl <| traceConsistent_delay _ <|
      traceConsistent_putSda _ h

theorem traceConsistent_effect {i : Instr} {s : State} (h : TraceConsistent s)
    (hi : preconditionFault i s = none) : TraceConsistent (effect i s) := by
  cases i with
  | init => exact traceConsistent_release .scl (traceConsistent_release .sda h)
  | start =>
    refine traceConsistent_startSequence ?_
    split
    · exact traceConsistent_startPrerelease h
    · exact h
  | stop => exact traceConsistent_stopSequence h
  | write d => exact traceConsistent_writeAck (traceConsistent_writeBits d h)
  | read a =>
    exact traceConsistent_readAck a
      (traceConsistent_readBits (traceConsistent_release .sda h) (release_sda_drvSda s))
  | crcchk data c => exact h
  | lineLow p => exact traceConsistent_driveLow p h
  | lineRelease p => exact traceConsistent_release p h
  | lineRead p =>
    have hp : configured p s = true := by simpa [preconditionFault] using hi
    exact traceConsistent_sample h ((configured_iff p s).mp hp)
  | delay n => exact traceConsistent_delay _ h

/-- Settles O29: every primitive a completed command is made of keeps the trace consistent, and a
mark touches neither the trace nor the drivers. -/
theorem stepKeepsTraceConsistent : Obligations.StepKeepsTraceConsistent := by
  intro s t h hstep
  exact stateAfter_step_rec hstep h (fun _ _ _ _ => h)
    (fun _ _ _ _ _ hi => traceConsistent_effect h hi) (fun _ _ _ _ _ _ _ => h)

/-! ### Later bytes do not change the command at hand (00_scope R14, 30_encoding R68) -/

theorem driveLow_present (p : Line) (bytes : List Byte) (s : State) :
    driveLow p (present bytes s) = present bytes (driveLow p s) := by
  cases p <;> rfl

theorem release_present (p : Line) (bytes : List Byte) (s : State) :
    release p (present bytes s) = present bytes (release p s) := by
  cases p <;> rfl

theorem delay_present (n : Nat) (bytes : List Byte) (s : State) :
    delay n (present bytes s) = present bytes (delay n s) := rfl

theorem sample_present (p : Line) (bytes : List Byte) (s : State) :
    sample p (present bytes s) = ((sample p s).1, present bytes (sample p s).2) := by
  have hdriver : driver p (present bytes s) = driver p s := by cases p <;> rfl
  by_cases h : driver p s = .drivenLow
  · rw [sample_of_drivenLow h, sample_of_drivenLow (hdriver.trans h)]
    rfl
  · rw [sample_of_not_drivenLow h, sample_of_not_drivenLow (hdriver ▸ h)]
    rfl

theorem putSda_present (b : Bit) (bytes : List Byte) (s : State) :
    putSda b (present bytes s) = present bytes (putSda b s) := by
  cases b with
  | false => exact driveLow_present .sda bytes s
  | true => exact release_present .sda bytes s

theorem startSequence_present (bytes : List Byte) (s : State) :
    startSequence (present bytes s) = present bytes (startSequence s) := by
  simp only [startSequence, present_params, driveLow_present, delay_present]

theorem startPrerelease_present (bytes : List Byte) (s : State) :
    startPrerelease (present bytes s) = present bytes (startPrerelease s) := by
  simp only [startPrerelease, release_present]

theorem stopSequence_present (bytes : List Byte) (s : State) :
    stopSequence (present bytes s) = present bytes (stopSequence s) := by
  simp only [stopSequence, present_params, driveLow_present, release_present, delay_present]

theorem writeBit_present (b : Bit) (bytes : List Byte) (s : State) :
    writeBit (present bytes s) b = present bytes (writeBit s b) := by
  simp only [writeBit, present_params, putSda_present, driveLow_present, release_present,
    delay_present]

theorem writeBits_present (d : Byte) (bytes : List Byte) (s : State) :
    writeBits d (present bytes s) = present bytes (writeBits d s) :=
  List.foldl_hom (present bytes) fun s i => writeBit_present (bitOf d i) bytes s

theorem writeAck_present (bytes : List Byte) (s : State) :
    writeAck (present bytes s) = ((writeAck s).1, present bytes (writeAck s).2) := by
  simp only [writeAck, present_params, driveLow_present, release_present, delay_present,
    sample_present]

theorem readBit_present (bytes : List Byte) (s : State) :
    readBit (present bytes s) = ((readBit s).1, present bytes (readBit s).2) := by
  simp only [readBit, present_params, driveLow_present, release_present, delay_present,
    sample_present]

theorem readBits_present (bytes : List Byte) (s : State) :
    readBits (present bytes s) = Prod.map id (present bytes) (readBits s) := by
  have hclock (bs : Byte × State) (i : Nat) : readInto (Prod.map id (present bytes) bs) i =
      Prod.map id (present bytes) (readInto bs i) := by
    simp only [Prod.map, readInto, readBit_present, id]
  unfold readBits
  exact List.foldl_hom (Prod.map id (present bytes)) (init := (0, s)) hclock

theorem readAck_present (a : Ack) (bytes : List Byte) (s : State) :
    readAck a (present bytes s) = present bytes (readAck a s) := by
  simp only [readAck, present_params, putSda_present, driveLow_present, release_present,
    delay_present]

theorem effect_present (i : Instr) (bytes : List Byte) (s : State) :
    effect i (present bytes s) = present bytes (effect i s) := by
  cases i with
  | init => simp only [effect, release_present]
  | start =>
    cases hp : s.params.startPrerelease <;>
      simp [effect, hp, startPrerelease_present, startSequence_present]
  | stop => exact stopSequence_present bytes s
  | write d => simp only [effect, writeBits_present, writeAck_present]
  | read a => simp only [effect, release_present, readBits_present, Prod.map_snd,
      readAck_present]
  | crcchk data c => rfl
  | lineLow p => exact driveLow_present p bytes s
  | lineRelease p => exact release_present p bytes s
  | lineRead p => simp only [effect, sample_present]
  | delay n => rfl

theorem responseOf_present (i : Instr) (bytes : List Byte) (s : State) :
    responseOf i (present bytes s) = responseOf i s := by
  cases i with
  | write d => simp only [responseOf, writeBits_present, writeAck_present]
  | read a => simp only [responseOf, release_present, readBits_present, Prod.map_fst, id]
  | lineRead p => simp only [responseOf, sample_present]
  | init | start | stop | crcchk | lineLow | lineRelease | delay => rfl

theorem preconditionFault_present (i : Instr) (bytes : List Byte) (s : State) :
    preconditionFault i (present bytes s) = preconditionFault i s := by
  cases i with
  | lineRead p => cases p <;> rfl
  | init | start | stop | write | read | crcchk | lineLow | lineRelease | delay => rfl

theorem completedState_present (i : Instr) (bytes : List Byte) (s : State) :
    completedState i (present bytes s) = present bytes (completedState i s) := by
  simp only [completedState, effect_present, responseOf_present]
  rfl

/-- A command that stands whole at the position is decoded the same with bytes after it. -/
theorem fetch_present {s : State} {i : Instr} {rest : List Byte} (h : fetch s = .command i rest)
    (bytes : List Byte) : fetch (present bytes s) = .command i (rest ++ bytes) := by
  obtain ⟨hi, hbytes⟩ := decode_eq_command_iff.mp h
  obtain ⟨-, hk⟩ := k_add_instrLength_le h
  refine decode_eq_command_iff.mpr ⟨hi, ?_⟩
  have hle : s.k ≤ s.stream.length := by omega
  calc remaining (present bytes s) = remaining s ++ bytes := List.drop_append_of_le_length hle
    _ = encode i ++ (rest ++ bytes) := by rw [hbytes, List.append_assoc]

/-- Settles O32: decoding, the precondition and the effect of the command see none of the bytes
after it. -/
theorem laterBytesDoNotChangeACommand : Obligations.LaterBytesDoNotChangeACommand := by
  intro s t bytes hfetch
  have hcase := stepCase s
  refine ⟨fun hnext => ?next, fun f hfault hs => ?fault⟩
  case next =>
    rw [hnext] at hcase
    cases hcase with
    | waits _ _ h => exact absurd h hfetch
    | completes hf hr h hi =>
      rw [step_of_no_preconditionFault (s := present bytes s) hf hr (fetch_present h bytes)
        ((preconditionFault_present _ bytes s).trans hi), completedState_present]
  case fault =>
    rw [hfault] at hcase
    cases hcase with
    | faulted hf => exact absurd (hs.symm.trans hf) (by simp)
    | @faults i rest r hf hr h hi =>
      refine ⟨_, step_of_preconditionFault (s := present bytes s) hf hr (fetch_present h bytes)
        ((preconditionFault_present _ bytes s).trans hi), ?_⟩
      rw [faultState_faultOf, faultState_faultOf]
      rfl

/-! ### A run executes the decoding of its stream (30_encoding R76, 70_reset_and_hazards R193) -/

theorem remaining_completedState {s : State} {i : Instr} {rest : List Byte}
    (hi : wellFormed i = true) (h : remaining s = encode i ++ rest) :
    remaining (completedState i s) = rest := by
  rw [remaining, completedState_stream, completedState_k, ← List.drop_drop, ← remaining, h,
    List.drop_left' (length_encode hi)]

theorem afterExec_exec_of_no_preconditionFault {i : Instr} {s : State}
    (h : preconditionFault i s = none) : afterExec i (exec i s) = .next (completedState i s) := by
  rw [exec_of_no_preconditionFault h, afterExec_next, completedState]

theorem afterExec_exec_of_preconditionFault {i : Instr} {s : State} {r : FaultReason}
    (h : preconditionFault i s = some r) :
    afterExec i (exec i s) = .fault (faultOf r (faultedState i r s)) := by
  rw [exec_of_preconditionFault h, afterExec_fault, advanceFault_faultOf, faultedState]

theorem runCommands_cons_of_no_preconditionFault {i : Instr} {s : State}
    (h : preconditionFault i s = none) (is : List Instr) :
    runCommands (i :: is) s = runCommands is (completedState i s) := by
  rw [runCommands, afterExec_exec_of_no_preconditionFault h]

theorem runCommands_cons_of_preconditionFault {i : Instr} {s : State} {r : FaultReason}
    (h : preconditionFault i s = some r) (is : List Instr) :
    runCommands (i :: is) s = .fault (faultOf r (faultedState i r s)) := by
  rw [runCommands, afterExec_exec_of_preconditionFault h]

/-- Where the stream holds the encoding of a program, a run of as many steps executes its
commands. -/
theorem run_eq_runCommands {is : List Instr} (his : ∀ i ∈ is, wellFormed i = true) {s : State}
    {rest : List Byte} (hf : s.fault = none) (hr : s.refused = none)
    (hbytes : remaining s = encodeProgram is ++ rest) :
    Sys2Proof.core.run is.length s = runCommands is s := by
  induction is generalizing s with
  | nil => rfl
  | cons i is ih =>
    obtain ⟨hi, his⟩ := List.forall_mem_cons.mp his
    rw [encodeProgram_cons, List.append_assoc] at hbytes
    have hfetch : fetch s = .command i (encodeProgram is ++ rest) :=
      decode_eq_command_iff.mpr ⟨hi, hbytes⟩
    rw [List.length_cons, run_succ]
    cases hp : preconditionFault i s with
    | none =>
      rw [step_of_no_preconditionFault hf hr hfetch hp, runCommands_cons_of_no_preconditionFault hp]
      exact ih his (by simpa using hf) (by simpa using hr) (remaining_completedState hi hbytes)
    | some r =>
      rw [step_of_preconditionFault hf hr hfetch hp, runCommands_cons_of_preconditionFault hp]
      rfl

/-- Commands that all complete leave the block unmarked and past their bytes. -/
theorem of_runCommands_next {is : List Instr} (his : ∀ i ∈ is, wellFormed i = true) {s t : State}
    (hf : s.fault = none) (hr : s.refused = none) (h : runCommands is s = .next t) :
    t.fault = none ∧ t.refused = none ∧ t.stream = s.stream ∧
      t.k = s.k + (encodeProgram is).length := by
  induction is generalizing s with
  | nil =>
    cases h
    exact ⟨hf, hr, rfl, rfl⟩
  | cons i is ih =>
    obtain ⟨hi, his⟩ := List.forall_mem_cons.mp his
    cases hp : preconditionFault i s with
    | none =>
      rw [runCommands_cons_of_no_preconditionFault hp] at h
      obtain ⟨htf, htr, hstream, hk⟩ := ih his (by simpa using hf) (by simpa using hr) h
      refine ⟨htf, htr, by simpa using hstream, ?_⟩
      rw [hk, completedState_k, encodeProgram_cons, List.length_append, length_encode hi,
        Nat.add_assoc]
    | some r =>
      rw [runCommands_cons_of_preconditionFault hp] at h
      cases h

/-- A run that has come to a state goes on from there. -/
theorem run_succ_of_run_next {n : Nat} {s t : State} (h : Sys2Proof.core.run n s = .next t) :
    Sys2Proof.core.run (n + 1) s = Sys2Proof.core.run 1 t := by
  induction n generalizing s with
  | zero =>
    cases h
    rfl
  | succ n ih =>
    rw [run_succ] at h ⊢
    cases hstep : step s with
    | next u =>
      rw [hstep] at h
      exact ih h
    | fault f => simp [hstep] at h
    | refused r => simp [hstep] at h

/-- Settles O46: the run executes the decoded commands one by one, and what the decoding leaves is
what the block then finds at its position. -/
theorem runFollowsTheDecodedProgram : Obligations.RunFollowsTheDecodedProgram := by
  intro s is r hf hr hk hdecode
  obtain ⟨rest, hbytes, his, hnone, hsome⟩ := accountsFor_of_decodeProgram hdecode
  have hrun := run_eq_runCommands his hf hr hbytes
  refine ⟨fun t ht => ?completes, fun f hfault => hrun.trans hfault⟩
  obtain ⟨htf, htr, hstream, htk⟩ := of_runCommands_next his hf hr ht
  have hleft : remaining t = rest := by
    rw [remaining, hstream, htk, ← List.drop_drop, hbytes, List.drop_left]
  refine ⟨hrun.trans ht, fun hend => ?normalEnd, fun reason pos hend => ?refusal⟩
  case normalEnd =>
    have hlen := length_remaining t
    rw [hleft, hnone hend, List.length_nil, hstream] at hlen
    have hle : (encodeProgram is).length ≤ s.stream.length - s.k := by
      rw [← List.length_drop, hbytes, List.length_append]
      exact Nat.le_add_right _ _
    have hend : t.k = t.stream.length := by
      rw [hstream]
      omega
    simp [endedNormally, marked, htf, htr, hend]
  case refusal =>
    obtain ⟨rfl, hrefuse⟩ := hsome reason pos hend
    have hfetch : fetch t = .refuse reason := by rw [fetch, hleft, hrefuse]
    rw [run_succ_of_run_next (hrun.trans ht), run_succ, step_of_refuse htf htr hfetch, markRefused,
      htk, Nat.zero_add]

end Sys2Proof.Steps

/-! PROOFS. The bus engine's INIT, START and STOP and the line driver's LINE_LOW from their bytes to
the state they leave (40_line_driver R86, 41_bus_engine R101 to R103). -/

namespace Sys2Proof.StartStop

open Sys2Proof.Machine Sys2Proof.Laws Sys2Proof.Responses Sys2Proof.BusEngine Sys2Proof.Codec

/-! ### The line events of each command, whole -/

theorem effect_init (s : State) : effect .init s =
    { s with drvSda := .released, drvScl := .released, trace := s.trace ++ initEvents } := by
  simp [effect, release, emit, setDriver, initEvents]

theorem effect_start (s : State) : effect .start s =
    { s with
      drvSda := .drivenLow
      drvScl := .drivenLow
      trace := s.trace ++ startEvents s.params } := by
  cases hp : s.params.startPrerelease <;>
    simp [effect, hp, startSequence, startPrerelease, startEvents, startStepList, delay, driveLow,
      release, emit, setDriver]

theorem effect_stop (s : State) : effect .stop s =
    { s with
      drvSda := .released
      drvScl := .released
      trace := s.trace ++ stopEvents s.params } := by
  simp [effect, stopSequence, stopEvents, delay, driveLow, release, emit, setDriver]

/-! ### INIT (R101) -/

/-- Settles O7: INIT has no precondition; its two releases make SDA rise under a high SCL. -/
theorem initReleasesBothLines : Obligations.InitReleasesBothLines := by
  refine ⟨decode_encode_init, fun s => ?_, rfl⟩
  rw [exec_of_no_preconditionFault (i := .init) rfl, effect_init]
  rfl

/-! ### START (R102) -/

theorem startEvents_of_prerelease {c : Config.Params} (h : c.startPrerelease = true) :
    startEvents c = .release .sda :: .release .scl :: startStepList c := if_pos h

theorem startEvents_of_no_prerelease {c : Config.Params} (h : c.startPrerelease = false) :
    startEvents c = startStepList c := by
  simp [startEvents, h]

theorem needsConfiguredLines_start {s : State} (h : s.params.startPrerelease = false) :
    NeedsConfiguredLines .start s :=
  .inr (.inr (.inr ⟨rfl, h⟩))

/-- Settles O8: the pre-release decides between the six events in every state and the four under the
precondition of the bus commands. -/
theorem startDrivesSdaThenScl : Obligations.StartDrivesSdaThenScl := by
  refine ⟨decode_encode_start, fun s hp => ?prerelease, fun s hp hsda hscl => ?literal,
    fun s hp h => (needsConfiguredLines_start hp).exec_of_unconfigured h, fun c hp => ?rises,
    fun c hp => ?doesNot⟩
  case prerelease =>
    rw [exec_of_no_preconditionFault (i := .start) (by simp [preconditionFault, hp]), effect_start,
      startEvents_of_prerelease hp]
    rfl
  case literal =>
    rw [(needsConfiguredLines_start hp).exec_of_configured hsda hscl, effect_start,
      startEvents_of_no_prerelease hp]
    rfl
  case rises =>
    rw [startEvents_of_prerelease hp]
    rfl
  case doesNot =>
    rw [startEvents_of_no_prerelease hp]
    rfl

/-! ### STOP (R103) -/

theorem needsConfiguredLines_stop (s : State) : NeedsConfiguredLines .stop s := .inl rfl

/-- Settles O9: STOP under the precondition of the bus commands; on the wire SDA falls while SCL is
low after WRITE or READ, and while SCL is high on the idle bus. -/
theorem stopReleasesSclThenSda : Obligations.StopReleasesSclThenSda := by
  refine ⟨decode_encode_stop, fun s hsda hscl => ?completes,
    fun s h => (needsConfiguredLines_stop s).exec_of_unconfigured h, fun c => ⟨rfl, rfl, rfl⟩⟩
  case completes =>
    rw [(needsConfiguredLines_stop s).exec_of_configured hsda hscl, effect_stop]
    rfl

/-! ### LINE_LOW (R86) -/

/-- Settles O13: LINE_LOW is `DriveLow(p)` and the response none, on either line. -/
theorem lineLowDrivesTheLine : Obligations.LineLowDrivesTheLine :=
  ⟨fun rest => ⟨decode_encode_lineLow .sda rest, decode_encode_lineLow .scl rest⟩,
    fun _ => ⟨rfl, rfl⟩, rfl⟩

end Sys2Proof.StartStop

/-! PROOFS. The events of the bus engine commands counted: drivers, samples, delays and clock pulses
(41_bus_engine R110, R111, R113), and the start and stop conditions they make on the wire (R112, in
the reading of log 8). -/

namespace Sys2Proof.Wire

open Sys2Proof.Machine Sys2Proof.Config Sys2Proof.Laws Sys2Proof.Responses Sys2Proof.BusEngine
open Sys2Proof.Exceptions Sys2Proof.Steps Sys2Proof.StartStop

/-! ### The drivers after each engine command (R110) -/

/-- Settles O34: each engine command ends by writing both drivers. -/
theorem engineCommandsFixTheDrivers : Obligations.EngineCommandsFixTheDrivers := by
  refine fun s t => ⟨fun h => ?init, fun h => ?start, fun h => ?stop, fun d h => ?write,
    fun a h => ?read⟩
  case init => rw [eq_of_exec_next h, effect_init]; rfl
  case start => rw [eq_of_exec_next h, effect_start]; rfl
  case stop => rw [eq_of_exec_next h, effect_stop]; rfl
  case write =>
    obtain ⟨v, hv⟩ := effect_write d s
    rw [eq_of_exec_next h, hv]
    rfl
  case read => rw [eq_of_exec_next h, effect_read]; rfl

/-! ### No measure of the events sees a sampled value -/

/-- The events of a completed command have the shape of the command. -/
theorem map_eventShape_of_exec_next {i : Instr} {s t : State} {es : List Event}
    (h : exec i s = .next t) (hes : t.trace = s.trace ++ es) :
    es.map eventShape = commandShape i s.params := by
  obtain ⟨fs, hfs, hshape⟩ := effect_trace i s
  rw [eq_of_exec_next h, respond_trace] at hes
  rwa [List.append_cancel_left (hes.symm.trans hfs)]

theorem linesAfter_eventShape (l : Lines) (e : Event) :
    linesAfter l (eventShape e) = linesAfter l e := by
  cases e <;> rfl

theorem countAlong_map_eventShape {test : Lines → Event → Bool}
    (htest : ∀ l e, test l (eventShape e) = test l e) (l : Lines) (es : List Event) :
    countAlong test l (es.map eventShape) = countAlong test l es := by
  induction es generalizing l with
  | nil => rfl
  | cons e es ih => simp [countAlong, htest, linesAfter_eventShape, ih]

@[simp] theorem startConditions_map_eventShape (l : Lines) (es : List Event) :
    startConditions l (es.map eventShape) = startConditions l es :=
  countAlong_map_eventShape (fun l e => by simp [isStartCondition, linesAfter_eventShape]) l es

@[simp] theorem stopConditions_map_eventShape (l : Lines) (es : List Event) :
    stopConditions l (es.map eventShape) = stopConditions l es :=
  countAlong_map_eventShape (fun l e => by simp [isStopCondition, linesAfter_eventShape]) l es

@[simp] theorem clockRises_map_eventShape (l : Lines) (es : List Event) :
    clockRises l (es.map eventShape) = clockRises l es :=
  countAlong_map_eventShape (fun l e => by simp [isClockRise, linesAfter_eventShape]) l es

@[simp] theorem sampleCount_map_eventShape (p : Line) (es : List Event) :
    sampleCount p (es.map eventShape) = sampleCount p es := by
  induction es with
  | nil => rfl
  | cons e es ih => cases e <;> simp [eventShape, sampleCount, ih]

@[simp] theorem delayTotal_map_eventShape (es : List Event) :
    delayTotal (es.map eventShape) = delayTotal es := by
  induction es with
  | nil => rfl
  | cons e es ih => cases e <;> simp [eventShape, delayTotal, ih]

/-! ### Samples and delays of WRITE and READ -/

@[simp] theorem sampleCount_append (p : Line) (es fs : List Event) :
    sampleCount p (es ++ fs) = sampleCount p es + sampleCount p fs := by
  induction es with
  | nil => simp [sampleCount]
  | cons e es ih => cases e <;> simp [sampleCount, ih, Nat.add_assoc]

@[simp] theorem delayTotal_append (es fs : List Event) :
    delayTotal (es ++ fs) = delayTotal es + delayTotal fs := by
  induction es with
  | nil => simp [delayTotal]
  | cons e es ih => cases e <;> simp [delayTotal, ih, Nat.add_assoc]

@[simp] theorem length_writeBitEvents (c : Params) (b : Bit) :
    (writeBitEvents c b).length = 6 := rfl

@[simp] theorem sampleCount_writeBitEvents (p : Line) (c : Params) (b : Bit) :
    sampleCount p (writeBitEvents c b) = 0 := by
  cases b <;> rfl

@[simp] theorem delayTotal_writeBitEvents (c : Params) (b : Bit) :
    delayTotal (writeBitEvents c b) = c.tWrSuDat + c.tWrHigh + c.tWrHdDat := by
  cases b <;> simp [writeBitEvents, sdaAction, delayTotal, Nat.add_assoc]

theorem length_writeEvents (c : Params) (d : Byte) (v : Bit) : (writeEvents c d v).length = 54 := by
  simp [writeEvents, writeEventsBeforeAck, writeDataEvents]

/-- The one sample of WRITE is of SDA. -/
theorem sampleCount_writeEvents (p : Line) (c : Params) (d : Byte) (v : Bit) :
    sampleCount p (writeEvents c d v) = if .sda = p then 1 else 0 := by
  simp [writeEvents, writeEventsBeforeAck, writeDataEvents, sampleCount]

theorem delayTotal_writeEvents (c : Params) (d : Byte) (v : Bit) :
    delayTotal (writeEvents c d v) =
      8 * (c.tWrSuDat + c.tWrHigh + c.tWrHdDat) + c.tWrAckSu + c.tWrSettle := by
  simp only [writeEvents, writeEventsBeforeAck, writeDataEvents, delayTotal_append,
    delayTotal_writeBitEvents, delayTotal]
  omega

/-- Each data clock of READ samples SDA once. -/
@[simp] theorem sampleCount_readBitEvents (p : Line) (c : Params) (v : Bit) :
    sampleCount p (readBitEvents c v) = if .sda = p then 1 else 0 := by
  simp [readBitEvents, readBitEventsBefore, sampleCount]

@[simp] theorem sampleCount_readAckEvents (p : Line) (c : Params) (a : Ack) :
    sampleCount p (readAckEvents c a) = 0 := by
  cases a <;> rfl

/-- The samples of READ are its data samples of SDA. -/
theorem sampleCount_readEvents (p : Line) (c : Params) (a : Ack) (vs : List Bit) :
    sampleCount p (readEvents c a vs) = vs.length * if .sda = p then 1 else 0 := by
  have hdata : sampleCount p (vs.flatMap (readBitEvents c)) =
      vs.length * if .sda = p then 1 else 0 := by
    induction vs with
    | nil => simp [sampleCount]
    | cons v vs ih =>
      rw [List.flatMap_cons, sampleCount_append, sampleCount_readBitEvents, ih, List.length_cons,
        Nat.add_comm vs.length, Nat.add_mul, Nat.one_mul]
  simp [readEvents, readEventsAfter, sampleCount, hdata]

/-! ### The wire, one event at a time (log 8) -/

@[simp] theorem linesAfter_drive_sda (l : Lines) :
    linesAfter l (.drive .sda) = { l with sda := .drivenLow } := rfl

@[simp] theorem linesAfter_drive_scl (l : Lines) :
    linesAfter l (.drive .scl) = { l with scl := .drivenLow } := rfl

@[simp] theorem linesAfter_release_sda (l : Lines) :
    linesAfter l (.release .sda) = { l with sda := .released } := rfl

@[simp] theorem linesAfter_release_scl (l : Lines) :
    linesAfter l (.release .scl) = { l with scl := .released } := rfl

@[simp] theorem linesAfter_sample (l : Lines) (p : Line) (v : Bit) :
    linesAfter l (.sample p v) = l := rfl

@[simp] theorem linesAfter_delay (l : Lines) (n : Nat) : linesAfter l (.delay n) = l := rfl

@[simp] theorem replay_nil (l : Lines) : replay l [] = l := rfl

@[simp] theorem replay_cons (l : Lines) (e : Event) (es : List Event) :
    replay l (e :: es) = replay (linesAfter l e) es := rfl

@[simp] theorem startConditions_nil (l : Lines) : startConditions l [] = 0 := rfl

@[simp] theorem startConditions_cons (l : Lines) (e : Event) (es : List Event) :
    startConditions l (e :: es) =
      (if isStartCondition l e then 1 else 0) + startConditions (linesAfter l e) es := rfl

@[simp] theorem stopConditions_nil (l : Lines) : stopConditions l [] = 0 := rfl

@[simp] theorem stopConditions_cons (l : Lines) (e : Event) (es : List Event) :
    stopConditions l (e :: es) =
      (if isStopCondition l e then 1 else 0) + stopConditions (linesAfter l e) es := rfl

@[simp] theorem clockRises_nil (l : Lines) : clockRises l [] = 0 := rfl

@[simp] theorem clockRises_cons (l : Lines) (e : Event) (es : List Event) :
    clockRises l (e :: es) =
      (if isClockRise l e then 1 else 0) + clockRises (linesAfter l e) es := rfl

/-! ### Clock pulses (R111, R112) -/

theorem countAlong_append (test : Lines → Event → Bool) (l : Lines) (es fs : List Event) :
    countAlong test l (es ++ fs) = countAlong test l es + countAlong test (replay l es) fs := by
  induction es generalizing l with
  | nil => simp [countAlong, replay]
  | cons e es ih => simp [countAlong, ih, replay, Nat.add_assoc]

/-- From SCL low these events make `n` clock pulses, end with SCL low, and make no start and no stop
condition, whatever SDA is. -/
def PulsesClock (n : Nat) (es : List Event) : Prop :=
  ∀ l : Lines, l.scl = .drivenLow →
    (replay l es).scl = .drivenLow ∧ clockRises l es = n ∧
      startConditions l es = 0 ∧ stopConditions l es = 0

theorem PulsesClock.append {m n : Nat} {es fs : List Event} (hes : PulsesClock m es)
    (hfs : PulsesClock n fs) : PulsesClock (m + n) (es ++ fs) := by
  intro l hl
  obtain ⟨hmid, hrises, hstarts, hstops⟩ := hes l hl
  obtain ⟨hend, hrises', hstarts', hstops'⟩ := hfs (replay l es) hmid
  refine ⟨by rw [replay_append, hend], ?_, ?_, ?_⟩
  · rw [clockRises, countAlong_append, ← clockRises, ← clockRises, hrises, hrises']
  · rw [startConditions, countAlong_append, ← startConditions, ← startConditions, hstarts, hstarts']
  · rw [stopConditions, countAlong_append, ← stopConditions, ← stopConditions, hstops, hstops']

theorem PulsesClock.clockRises_eq {n : Nat} {es : List Event} (h : PulsesClock n es) {l : Lines}
    (hl : l.scl = .drivenLow) : clockRises l es = n := by
  obtain ⟨-, hrises, -⟩ := h l hl
  exact hrises

/-- One data clock of WRITE: SDA changes only while SCL is low. -/
theorem pulsesClock_writeBitEvents (c : Params) (b : Bit) : PulsesClock 1 (writeBitEvents c b) := by
  intro l hl
  cases b <;> simp [writeBitEvents, sdaAction, hl, isStartCondition, isStopCondition, isClockRise,
    idealLevel]

theorem pulsesClock_writeAckEvents (c : Params) (v : Bit) : PulsesClock 1
    (writeAckEventsBefore c ++ [.sample .sda v, .drive .scl, .delay c.tWrSettle]) := by
  intro l hl
  simp [writeAckEventsBefore, hl, isStartCondition, isStopCondition, isClockRise, idealLevel]

theorem pulsesClock_writeEvents (c : Params) (d : Byte) (v : Bit) :
    PulsesClock 9 (writeEvents c d v) := by
  have hdata : PulsesClock 8 (writeDataEvents c d) :=
    (((((((pulsesClock_writeBitEvents c _).append (pulsesClock_writeBitEvents c _)).append
      (pulsesClock_writeBitEvents c _)).append (pulsesClock_writeBitEvents c _)).append
      (pulsesClock_writeBitEvents c _)).append (pulsesClock_writeBitEvents c _)).append
      (pulsesClock_writeBitEvents c _)).append (pulsesClock_writeBitEvents c _)
  simpa [writeEvents, writeEventsBeforeAck, writeAckEventsBefore] using
    hdata.append (pulsesClock_writeAckEvents c v)

theorem pulsesClock_release_sda : PulsesClock 0 [.release .sda] := by
  intro l hl
  simp [hl, isStartCondition, isStopCondition, isClockRise, idealLevel]

theorem pulsesClock_readBitEvents (c : Params) (v : Bit) : PulsesClock 1 (readBitEvents c v) := by
  intro l hl
  simp [readBitEvents, readBitEventsBefore, hl, isStartCondition, isStopCondition, isClockRise,
    idealLevel]

theorem pulsesClock_flatMap_readBitEvents (c : Params) (vs : List Bit) :
    PulsesClock vs.length (vs.flatMap (readBitEvents c)) := by
  induction vs with
  | nil => exact fun l hl => ⟨hl, rfl, rfl, rfl⟩
  | cons v vs ih =>
    rw [List.length_cons, Nat.add_comm, List.flatMap_cons]
    exact (pulsesClock_readBitEvents c v).append ih

theorem pulsesClock_readAckEvents (c : Params) (a : Ack) : PulsesClock 1 (readAckEvents c a) := by
  intro l hl
  cases a <;> simp [readAckEvents, ackAction, hl, isStartCondition, isStopCondition, isClockRise,
    idealLevel]

theorem pulsesClock_readEvents (c : Params) (a : Ack) (vs : List Bit) :
    PulsesClock (vs.length + 1) (readEvents c a vs) := by
  have hdata : PulsesClock (0 + vs.length) (readEventsAfter c vs) :=
    pulsesClock_release_sda.append (pulsesClock_flatMap_readBitEvents c vs)
  simpa [readEvents] using hdata.append (pulsesClock_readAckEvents c a)

/-- WRITE and READ are nine clock pulses each. -/
theorem pulsesClock_commandShape {i : Instr} (hi : (∃ d, i = .write d) ∨ ∃ a, i = .read a)
    (c : Params) : PulsesClock 9 (commandShape i c) := by
  obtain ⟨d, rfl⟩ | ⟨a, rfl⟩ := hi
  · exact pulsesClock_writeEvents c d false
  · exact pulsesClock_readEvents c a (List.replicate 8 false)

/-! ### Totals (R111) and samples of SCL (R113) -/

/-- STOP drives SCL low itself, so it makes its pulse from any state. -/
theorem clockRises_stopEvents (c : Params) (l : Lines) : clockRises l (stopEvents c) = 1 := by
  cases h : l.scl <;> simp [stopEvents, isClockRise, h]

/-- Settles O35: each measure of the events is that of the command's shape. -/
theorem engineCommandTotals : Obligations.EngineCommandTotals := by
  intro s t i es hparams h hes
  have hshape := map_eventShape_of_exec_next h hes
  rw [← List.length_map (f := eventShape), ← sampleCount_map_eventShape,
    ← delayTotal_map_eventShape, ← clockRises_map_eventShape, hshape]
  refine ⟨?init, ?start, ?stop, ?write, ?read⟩
  case init =>
    rintro rfl
    exact ⟨rfl, rfl, rfl⟩
  case start =>
    rintro rfl
    obtain hc | hc := hparams <;> rw [hc] <;> exact ⟨rfl, rfl, rfl⟩
  case stop =>
    rintro rfl
    refine ⟨rfl, rfl, ?_, clockRises_stopEvents s.params (linesOf s)⟩
    obtain hc | hc := hparams <;> rw [hc] <;> rfl
  case write =>
    rintro d rfl
    refine ⟨length_writeEvents s.params d false, sampleCount_writeEvents .sda s.params d false, ?_,
      (pulsesClock_commandShape (.inl ⟨d, rfl⟩) s.params).clockRises_eq (l := linesOf s)⟩
    obtain hc | hc := hparams <;> rw [hc, commandShape, delayTotal_writeEvents] <;> rfl
  case read =>
    rintro a rfl
    refine ⟨?_, sampleCount_readEvents .sda s.params a (List.replicate 8 false), ?_,
      (pulsesClock_commandShape (.inr ⟨a, rfl⟩) s.params).clockRises_eq (l := linesOf s)⟩
    · cases a <;> rfl
    · obtain hc | hc := hparams <;> rw [hc] <;> cases a <;> decide

/-- Settles O36: WRITE and READ sample SDA only, the other engine commands sample nothing. -/
theorem engineNeverSamplesScl : Obligations.EngineNeverSamplesScl := by
  intro s t i es hi h hes
  rw [← sampleCount_map_eventShape, map_eventShape_of_exec_next h hes]
  obtain rfl | rfl | rfl | ⟨d, rfl⟩ | ⟨a, rfl⟩ := hi
  · rfl
  · cases hp : s.params.startPrerelease <;> simp [commandShape, startEvents, hp] <;> rfl
  · rfl
  · exact sampleCount_writeEvents .scl s.params d false
  · exact sampleCount_readEvents .scl s.params a (List.replicate 8 false)

/-! ### Start and stop conditions (R112, log 8) -/

/-- With the pre-release START makes its start condition, and no stop condition unless SDA is low
under a high SCL. -/
theorem wireConditions_startEvents {c : Params} (hp : c.startPrerelease = true) {l : Lines}
    (hl : l.sda = .released ∨ l.scl = .drivenLow) :
    startConditions l (startEvents c) = 1 ∧ stopConditions l (startEvents c) = 0 := by
  rw [startEvents_of_prerelease hp]
  obtain hl | hl := hl <;>
    simp [startStepList, hl, isStartCondition, isStopCondition, idealLevel]

/-- STOP makes its stop condition, and no start condition unless both lines are high. -/
theorem wireConditions_stopEvents (c : Params) {l : Lines}
    (hl : l.sda = .drivenLow ∨ l.scl = .drivenLow) :
    startConditions l (stopEvents c) = 0 ∧ stopConditions l (stopEvents c) = 1 := by
  obtain hl | hl := hl <;> simp [stopEvents, hl, isStartCondition, isStopCondition, idealLevel]

/-- Settles O37: each named driver state has SCL low, or SDA as START and STOP need it. -/
theorem commandsMakeTheirWireConditions : Obligations.CommandsMakeTheirWireConditions := by
  intro s t i es h hes
  rw [← startConditions_map_eventShape, ← stopConditions_map_eventShape,
    map_eventShape_of_exec_next h hes]
  simp only [List.mem_cons, List.not_mem_nil, or_false]
  refine ⟨?start, ?stop, fun hi hl => ?clocks⟩
  case start =>
    rintro rfl hp hl
    refine wireConditions_startEvents hp ?_
    obtain hl | hl | hl := hl <;> simp [hl]
  case stop =>
    rintro rfl hl
    refine wireConditions_stopEvents s.params ?_
    obtain hl | hl | hl := hl <;> simp [hl]
  case clocks =>
    have hscl : (linesOf s).scl = .drivenLow := by obtain hl | hl := hl <;> rw [hl]
    obtain ⟨-, -, hquiet⟩ := pulsesClock_commandShape hi s.params (linesOf s) hscl
    exact hquiet

/-! ### Transactions (R112 (d), log 8) -/

/-- From `s` to `t` the trace grew by events that take the drivers from one to the other and make
this many start and stop conditions. -/
def ShowsOnWire (s t : State) (starts stops : Nat) : Prop :=
  ∃ es, t.trace = s.trace ++ es ∧ replay (linesOf s) es = linesOf t ∧
    startConditions (linesOf s) es = starts ∧ stopConditions (linesOf s) es = stops

theorem ShowsOnWire.refl (s : State) : ShowsOnWire s s 0 0 := ⟨[], by simp, rfl, rfl, rfl⟩

theorem ShowsOnWire.trans {s t u : State} {starts stops starts' stops' : Nat}
    (hst : ShowsOnWire s t starts stops) (htu : ShowsOnWire t u starts' stops') :
    ShowsOnWire s u (starts + starts') (stops + stops') := by
  obtain ⟨es, hes, hlines, rfl, rfl⟩ := hst
  obtain ⟨fs, hfs, hlines', rfl, rfl⟩ := htu
  refine ⟨es ++ fs, by rw [hfs, hes, List.append_assoc], by rw [replay_append, hlines, hlines'],
    ?_, ?_⟩
  · rw [startConditions, countAlong_append, hlines]
    rfl
  · rw [stopConditions, countAlong_append, hlines]
    rfl

theorem replay_map_eventShape (l : Lines) (es : List Event) :
    replay l (es.map eventShape) = replay l es := by
  simp only [replay, List.foldl_map, linesAfter_eventShape]

/-- A completed command shows the conditions its shape makes. -/
theorem showsOnWire_completedState (i : Instr) (s : State) :
    ShowsOnWire s (completedState i s)
      (startConditions (linesOf s) (commandShape i s.params))
      (stopConditions (linesOf s) (commandShape i s.params)) := by
  obtain ⟨es, hes, hshape⟩ := effect_trace i s
  refine ⟨es, hes, ?_, by simp [← hshape], by simp [← hshape]⟩
  rw [linesOf_completedState, linesOf_effect, ← hshape, replay_map_eventShape]

/-- A block inside a transaction: SDA configured, SCL low, and START with the pre-release. -/
def InTransaction (s : State) : Prop :=
  s.params.startPrerelease = true ∧ s.drvSda ≠ .unconfigured ∧ s.drvScl = .drivenLow

theorem InTransaction.bothConfigured {s : State} (h : InTransaction s) :
    bothConfigured s = true := by
  obtain ⟨-, hsda, hscl⟩ := h
  exact (bothConfigured_iff s).mpr ⟨hsda, by simp [hscl]⟩

/-- START begins a transaction, and goes on with one. -/
theorem inTransaction_start {s : State} (hp : s.params.startPrerelease = true) :
    InTransaction (completedState .start s) := by
  refine ⟨by simpa using hp, ?_, ?_⟩ <;> simp [completedState, effect_start]

/-- A transfer command completes inside a transaction, stays in it, and shows a start condition
exactly when it is START. -/
theorem transfer_in_transaction {i : Instr} (hi : isTransferCommand i = true) {s : State}
    (h : InTransaction s) : preconditionFault i s = none ∧ InTransaction (completedState i s) ∧
      ShowsOnWire s (completedState i s) ([i].count .start) 0 := by
  have hboth := h.bothConfigured
  obtain ⟨hp, hsda, hscl⟩ := h
  have hshows := showsOnWire_completedState i s
  cases i with
  | start =>
    obtain ⟨hstarts, hstops⟩ := wireConditions_startEvents hp (l := linesOf s) (.inr hscl)
    rw [commandShape, hstarts, hstops] at hshows
    exact ⟨by simp [preconditionFault, hp], inTransaction_start hp, hshows⟩
  | write d =>
    obtain ⟨-, -, hstarts, hstops⟩ :=
      pulsesClock_commandShape (.inl ⟨d, rfl⟩) s.params (linesOf s) hscl
    rw [hstarts, hstops] at hshows
    obtain ⟨v, hv⟩ := effect_write d s
    refine ⟨by simp [preconditionFault, hboth], ⟨by simpa using hp, ?_, ?_⟩, hshows⟩ <;>
      simp [completedState, hv]
  | read a =>
    obtain ⟨-, -, hstarts, hstops⟩ :=
      pulsesClock_commandShape (.inr ⟨a, rfl⟩) s.params (linesOf s) hscl
    rw [hstarts, hstops] at hshows
    refine ⟨by simp [preconditionFault, hboth], ⟨by simpa using hp, ?_, ?_⟩, hshows⟩ <;>
      simp [completedState, effect_read]
  | init | stop | crcchk | lineLow | lineRelease | lineRead | delay => cases hi

/-- The body of a transaction completes inside it, with one start condition per START. -/
theorem runCommands_transfers {body rest : List Instr} (hbody : body.all isTransferCommand = true)
    {s : State} (h : InTransaction s) : ∃ t, runCommands (body ++ rest) s = runCommands rest t ∧
      InTransaction t ∧ ShowsOnWire s t (body.count .start) 0 := by
  induction body generalizing s with
  | nil => exact ⟨s, rfl, h, ShowsOnWire.refl s⟩
  | cons i body ih =>
    rw [List.all_cons, Bool.and_eq_true] at hbody
    obtain ⟨hi, hbody⟩ := hbody
    obtain ⟨hnone, hin, hshows⟩ := transfer_in_transaction hi h
    obtain ⟨t, hrun, ht, hshows'⟩ := ih hbody hin
    refine ⟨t, (runCommands_cons_of_no_preconditionFault hnone _).trans hrun, ht, ?_⟩
    have hcount : (i :: body).count .start = [i].count .start + body.count .start :=
      List.count_append (l₁ := [i])
    rw [hcount]
    exact hshows.trans hshows'

/-- Settles O38: START enters the transaction, the body stays in it, STOP ends it. -/
theorem transactionFramesTheWire : Obligations.TransactionFramesTheWire := by
  intro s body hs hp hbody
  have hsda : (linesOf s).sda = .released := by rw [hs]
  have hstart : preconditionFault .start s = none := by simp [preconditionFault, hp]
  have hbegins := showsOnWire_completedState .start s
  obtain ⟨hstarts, hstops⟩ := wireConditions_startEvents hp (.inl hsda)
  rw [commandShape, hstarts, hstops] at hbegins
  obtain ⟨t, hrun, ht, hgoesOn⟩ :=
    runCommands_transfers (rest := [.stop]) hbody (inTransaction_start hp)
  have hstop : preconditionFault .stop t = none := by simp [preconditionFault, ht.bothConfigured]
  obtain ⟨-, -, hscl⟩ := ht
  have hends := showsOnWire_completedState .stop t
  obtain ⟨hstarts', hstops'⟩ :=
    wireConditions_stopEvents t.params (l := linesOf t) (.inr hscl)
  rw [commandShape, hstarts', hstops'] at hends
  obtain ⟨es, hes, hlines, hstarts, hstops⟩ := (hbegins.trans hgoesOn).trans hends
  refine ⟨completedState .stop t, es, ?_, hes, hstarts, by simpa using hstops, ?_⟩
  · rw [runCommands_cons_of_no_preconditionFault hstart, hrun,
      runCommands_cons_of_no_preconditionFault hstop]
    rfl
  · rw [linesOf_completedState, effect_stop]
    rfl

end Sys2Proof.Wire

/-! PROOFS. What the CRC detects (42_crc8 sections 1 and 2): the accumulator loses nothing, so one
changed byte always changes the CRC. -/

namespace Sys2Proof.CrcDetection

open Sys2Proof.Machine Sys2Proof.Laws Sys2Proof.Responses

/-! ### The accumulator loses nothing -/

/-- The lowest bit of the polynomial is set, so bit 0 of a shifted accumulator is the bit 7 shifted
out. -/
theorem getLsbD_zero_crcShift {poly : Byte} (hpoly : bitOf poly 0 = true) (acc : Byte) :
    (crcShift poly acc).getLsbD 0 = bitOf acc 7 := by
  have hlow : poly.getLsbD 0 = true := hpoly
  cases h : bitOf acc 7 <;> simp [crcShift, h, hlow]

/-- Two bytes with the same bit 7 and the same left shift are the same. -/
theorem eq_of_shiftLeft_eq {a b : Byte} (htop : bitOf a 7 = bitOf b 7) (h : a <<< 1 = b <<< 1) :
    a = b := by
  refine BitVec.eq_of_getLsbD_eq fun i hi => ?_
  obtain rfl | hlt : i = 7 ∨ i + 1 < 8 := by omega
  · exact htop
  · simpa [hlt, BitVec.getLsbD_eq_getElem hi] using congrArg (fun v : Byte => v.getLsbD (i + 1)) h

theorem crcShift_injective {poly : Byte} (hpoly : bitOf poly 0 = true) :
    Function.Injective (crcShift poly) := by
  intro a b h
  have htop : bitOf a 7 = bitOf b 7 := by
    rw [← getLsbD_zero_crcShift hpoly a, ← getLsbD_zero_crcShift hpoly b, h]
  refine eq_of_shiftLeft_eq htop ?_
  cases hb : bitOf b 7 <;> simpa [crcShift, htop, hb] using h

theorem xor_left_injective (acc : Byte) : Function.Injective (acc ^^^ ·) :=
  fun _ _ => (BitVec.xor_right_inj acc).mp

theorem crcByte_injective {poly : Byte} (hpoly : bitOf poly 0 = true) (acc : Byte) :
    Function.Injective (crcByte poly acc) :=
  ((crcShift_injective hpoly).iterate 8).comp (xor_left_injective acc)

theorem crcByte_comm (poly acc d : Byte) : crcByte poly acc d = crcByte poly d acc := by
  rw [crcByte, BitVec.xor_comm, ← crcByte]

/-- Different accumulators stay different over the same data. -/
theorem foldl_crcByte_injective {poly : Byte} (hpoly : bitOf poly 0 = true) (data : List Byte) :
    Function.Injective (fun acc => data.foldl (crcByte poly) acc) := by
  induction data with
  | nil => exact Function.injective_id
  | cons d data ih =>
    intro a b h
    have hbyte : crcByte poly a d = crcByte poly b d := ih h
    rw [crcByte_comm poly a, crcByte_comm poly b] at hbyte
    exact crcByte_injective hpoly d hbyte

theorem bitOf_specParams_crcPoly : bitOf Config.specParams.crcPoly 0 = true := rfl

/-- Settles O41: the accumulators differ after the one byte, and so at the end. -/
theorem oneCorruptedByteIsDetected : Obligations.OneCorruptedByteIsDetected := by
  intro before after d e hde h
  simp only [crc8, List.foldl_append, List.foldl_cons] at h
  have hbyte := foldl_crcByte_injective bitOf_specParams_crcPoly after h
  exact hde (crcByte_injective bitOf_specParams_crcPoly _ hbyte)

/-! ### The four properties (R144) -/

@[simp] theorem crcShift_zero (poly : Byte) : crcShift poly 0 = 0 := by
  simp [crcShift, bitOf]

/-- A byte that meets its own value leaves nothing. -/
theorem crcByte_self (poly acc : Byte) : crcByte poly acc acc = 0 := by
  rw [crcByte, BitVec.xor_self]
  exact Function.iterate_fixed (crcShift_zero poly) 8

theorem crc8_append_crc8 (c : Config.Params) (data : List Byte) :
    crc8 c (data ++ [crc8 c data]) = 0 := by
  rw [crc8, List.foldl_concat, ← crc8, crcByte_self]

/-- Every byte is the CRC of exactly one byte: the map is injective on a finite set. -/
theorem existsUnique_crc8_singleton (b : Byte) : ∃! d : Byte, crc8 Config.specParams [d] = b :=
  (Finite.injective_iff_bijective.mp
    (crcByte_injective bitOf_specParams_crcPoly Config.specParams.crcInit)).existsUnique b

/-- CRCCHK completes in every state with the mask of the comparison. -/
theorem exec_crcchk_responses (data : List Byte) (c : Byte) (s : State) :
    ∃ t, exec (.crcchk data c) s = .next t ∧
      t.responses = s.responses ++ [.mask (crcMask (crc8 s.params data) c)] :=
  ⟨_, exec_of_no_preconditionFault (i := .crcchk data c) rfl, rfl⟩

/-- Settles O40: the mask compares the two checksums; the CRC of one byte and of data with its own
CRC are those of the accumulator. -/
theorem checksumProperties : Obligations.ChecksumProperties := by
  refine ⟨fun s data => ?right, fun s data c hc => ?wrong, existsUnique_crc8_singleton,
    fun c _ data => crc8_append_crc8 c data⟩
  case right => simpa [crcMask] using exec_crcchk_responses data (crc8 s.params data) s
  case wrong => simpa [crcMask, hc.symm, checksumError] using exec_crcchk_responses data c s

end Sys2Proof.CrcDetection

/-! PROOFS. The state at power-on (10_state R35, 70_reset_and_hazards R180). -/

namespace Sys2Proof.PowerOn

open Sys2Proof.Machine Sys2Proof.LineDriver

/-- Settles O1: nothing stands presented at power-on, so the position is that of the first byte; the
environment's answer is free, as in every state. -/
theorem powerOnState : Obligations.PowerOnState :=
  ⟨rfl, rfl, rfl, rfl, rfl, rfl, rfl, fun _ => rfl, fun p v => exists_draw_eq p State.reset v⟩

/-- Settles O2: power-on takes the values of the table. -/
theorem powerOnParameters : Obligations.PowerOnParameters := rfl

end Sys2Proof.PowerOn

/-! PROOFS. The assembler's lines: what each encodes as, and its operands out of their range
(30_encoding R74, R75). -/

namespace Sys2Proof.AssemblerLines

open Sys2Proof.Machine Sys2Proof.Laws

/-! ### Operands within and out of their range -/

theorem inRange_of_le {bound n : Nat} (h : n ≤ bound) : inRange bound n = some n :=
  inRange_eq_some.mpr ⟨h, rfl⟩

theorem asmByte_of_le {n : Nat} (h : n ≤ 255) : asmByte n = some (BitVec.ofNat 8 n) :=
  asmByte_eq_some.mpr ⟨h, rfl⟩

theorem countHigh_ofNat (n : Nat) (h : n ≤ 65535) :
    countHigh (BitVec.ofNat 16 n) = BitVec.ofNat 8 (n / 256) := by
  apply BitVec.eq_of_toNat_eq
  rw [countHigh, BitVec.extractLsb'_toNat, Nat.shiftRight_eq_div_pow, BitVec.toNat_ofNat,
    BitVec.toNat_ofNat]
  omega

theorem countLow_ofNat (n : Nat) : countLow (BitVec.ofNat 16 n) = BitVec.ofNat 8 n := by
  apply BitVec.eq_of_toNat_eq
  rw [countLow, BitVec.extractLsb'_toNat, Nat.shiftRight_eq_div_pow, BitVec.toNat_ofNat,
    BitVec.toNat_ofNat]
  omega

theorem assemble_write_of_le {d : Nat} (h : d ≤ 255) :
    assemble (.write d) = some (.write (BitVec.ofNat 8 d)) := by
  simp [assemble, asmByte_of_le h]

theorem assemble_write_of_lt {d : Nat} (h : 255 < d) : assemble (.write d) = none := by
  simp [assemble, asmByte_eq_none.mpr h]

theorem assemble_delay_of_le {n : Nat} (h : n ≤ 65535) :
    assemble (.delay n) = some (.delay (BitVec.ofNat 16 n)) := by
  simp [assemble, inRange_of_le h]

theorem assemble_delay_of_lt {n : Nat} (h : 65535 < n) : assemble (.delay n) = none := by
  simp [assemble, inRange_eq_none.mpr h]

/-! ### CRCCHK -/

theorem mapM_asmByte_of_le {data : List Nat} (h : ∀ b ∈ data, b ≤ 255) :
    data.mapM asmByte = some (data.map (BitVec.ofNat 8)) := by
  induction data with
  | nil => rfl
  | cons b data ih =>
    obtain ⟨hb, hdata⟩ := List.forall_mem_cons.mp h
    simp [List.mapM_cons, asmByte_of_le hb, ih hdata]

theorem mapM_asmByte_of_lt {data : List Nat} (h : ∃ b ∈ data, 255 < b) :
    data.mapM asmByte = none := by
  induction data with
  | nil => simp at h
  | cons b data ih =>
    obtain hb | hdata := (List.exists_mem_cons_iff _ _ _).mp h
    · simp [List.mapM_cons, asmByte_eq_none.mpr hb]
    · simp [List.mapM_cons, ih hdata]

theorem assemble_crcchk_of_le {data : List Nat} {c : Nat} (hlen : data.length ≤ 255)
    (hdata : ∀ b ∈ data, b ≤ 255) (hc : c ≤ 255) : assemble (.crcchk data c) =
      some (.crcchk (data.map (BitVec.ofNat 8)) (BitVec.ofNat 8 c)) := by
  have hcount : inRange maxCrcData data.length = some data.length := inRange_of_le hlen
  simp [assemble, mapM_asmByte_of_le hdata, asmByte_of_le hc, hcount]

theorem assemble_crcchk_of_lt {data : List Nat} {c : Nat}
    (h : 255 < data.length ∨ (∃ b ∈ data, 255 < b) ∨ 255 < c) :
    assemble (.crcchk data c) = none := by
  obtain h | h | h := h
  · have hcount : inRange maxCrcData data.length = none := inRange_eq_none.mpr h
    simp [assemble, hcount]
  · simp [assemble, mapM_asmByte_of_lt h]
  · simp [assemble, asmByte_eq_none.mpr h]

/-! ### The pseudo-instructions (R75) -/

theorem shiftLeft_one_or_one (a : Nat) : a <<< 1 ||| 1 = 2 * a + 1 := by
  rw [← Nat.shiftLeft_add_eq_or_of_lt (by decide), Nat.shiftLeft_eq, pow_one, Nat.mul_comm]

theorem assemble_addrw_of_le {a : Nat} (h : a ≤ 127) :
    assemble (.addrw a) = some (.write (BitVec.ofNat 8 (2 * a))) := by
  simp [assemble, inRange_of_le h, Nat.shiftLeft_eq, Nat.mul_comm]

theorem assemble_addrr_of_le {a : Nat} (h : a ≤ 127) :
    assemble (.addrr a) = some (.write (BitVec.ofNat 8 (2 * a + 1))) := by
  simp only [assemble, inRange_of_le h, shiftLeft_one_or_one, Option.map_some]

theorem assemble_delayMs_of_le {m : Nat} (h : m ≤ 65) :
    assemble (.delayMs m) = assemble (.delay (1000 * m)) := by
  have hn : 1000 * m ≤ 65535 := by omega
  simp [assemble, inRange_of_le h, inRange_of_le hn]

/-- Settles O47: each row from its range lemma; a row without a number is its own constant. -/
theorem assemblyLinesEncodeAsTheTable : Obligations.AssemblyLinesEncodeAsTheTable := by
  refine ⟨rfl, rfl, rfl, rfl, rfl, rfl, rfl, rfl, rfl, rfl, rfl, fun d h => ?write,
    fun d => assemble_write_of_lt, fun n h => ?delay, fun n => assemble_delay_of_lt,
    fun data c hlen hdata hc => ?crcchk, fun data c => assemble_crcchk_of_lt, rfl,
    fun a h => ⟨?addrw, ?addrr⟩, fun a h => ⟨?addrwRange, ?addrrRange⟩,
    fun m => assemble_delayMs_of_le, fun m h => ?delayMsRange⟩
  case write => simp [assemble_write_of_le h, encode]
  case delay => simp [assemble_delay_of_le h, encode, countHigh_ofNat n h, countLow_ofNat]
  case crcchk => simp [assemble_crcchk_of_le hlen hdata hc, encode]
  case addrw => simp [assemble_addrw_of_le h, encode]
  case addrr => simp [assemble_addrr_of_le h, encode]
  case addrwRange => simp [assemble, inRange_eq_none.mpr h]
  case addrrRange => simp [assemble, inRange_eq_none.mpr h]
  case delayMsRange => simp [assemble, inRange_eq_none.mpr h]

end Sys2Proof.AssemblerLines

/-! PROOFS. The text of the assembler (R74, R75, log 9): numbers, words and lines are read back as
they are written. -/

namespace Sys2Proof.AssemblerText

open Sys2Proof.Machine Sys2Proof.Laws

/-! ### Numbers -/

theorem hexDigit_digitChar : ∀ v < 16, hexDigit (Nat.digitChar v) = some v := by decide

theorem digits_digitChar {base v : Nat} (hbase : base ≤ 16) (hv : v < base) (acc : Nat) :
    digits base acc [Nat.digitChar v] = some (acc * base + v) := by
  simp [digits, hexDigit_digitChar v (hv.trans_le hbase), hv]

/-- The digits of a number read back, the last one onto the number the others denote. -/
theorem digits_toDigits {base : Nat} (hone : 1 < base) (hbase : base ≤ 16) (n : Nat) :
    digits base 0 (Nat.toDigits base n) = some n := by
  induction n using Nat.strongRecOn with
  | ind n ih =>
    by_cases hn : n < base
    · rw [Nat.toDigits_of_lt_base hn, digits_digitChar hbase hn]
      simp
    · have hle : base ≤ n := Nat.le_of_not_lt hn
      have hlt : n / base < n := Nat.div_lt_self (by omega) hone
      rw [Nat.toDigits_of_base_le hone hle, digits_append, ih _ hlt, Option.bind_some,
        digits_digitChar hbase (Nat.mod_lt n (by omega)), Nat.div_add_mod']

/-- What does not begin with 0x is read in decimal. -/
theorem number_eq_digits {w : List Char} (hne : w ≠ []) (hx : 'x' ∉ w) :
    number w = digits 10 0 w := by
  unfold number
  split
  · exact absurd rfl hne
  · simp at hx
  · rfl

theorem x_notMem_toDigits (n : Nat) : 'x' ∉ Nat.toDigits 10 n := fun h =>
  absurd (Nat.isDigit_of_mem_toDigits (by decide) le_rfl h) (by decide)

theorem number_toDigits_ten (n : Nat) : number (Nat.toDigits 10 n) = some n := by
  rw [number_eq_digits Nat.toDigits_ne_nil (x_notMem_toDigits n)]
  exact digits_toDigits (by decide) (by decide) n

theorem number_toDigits_sixteen (n : Nat) :
    number ('0' :: 'x' :: Nat.toDigits 16 n) = some n := by
  have hread : digits 16 0 (Nat.toDigits 16 n) = some n := digits_toDigits (by decide) le_rfl n
  cases hw : Nat.toDigits 16 n with
  | nil => exact absurd hw Nat.toDigits_ne_nil
  | cons c cs => rwa [hw] at hread

/-! ### Words -/

/-- A word of a line: at least one character, and none that ends a word. -/
abbrev IsWord (w : List Char) : Prop := w ≠ [] ∧ ∀ c ∈ w, c ∉ wordEnds

theorem tokenize_word_nil {w : List Char} (hw : IsWord w) : tokenize [] w = [.word w] := by
  obtain ⟨hne, hends⟩ := hw
  have hgather := tokenize_word hends [] []
  rw [List.append_nil, List.append_nil] at hgather
  rw [hgather, tokenize, flushWord_reverse hne]

/-- A character that ends words closes the word before it. -/
theorem tokenize_word_end {w : List Char} (hw : IsWord w) {c : Char} (hc : c ∈ wordEnds)
    (cs : List Char) : tokenize [] (w ++ c :: cs) = .word w :: tokenize [] (c :: cs) := by
  obtain ⟨hne, hends⟩ := hw
  have hflush : flushWord w.reverse = [.word w] := flushWord_reverse hne
  have hnil : flushWord [] = [] := rfl
  rw [tokenize_word hends, List.append_nil]
  simp only [wordEnds, List.mem_cons, List.not_mem_nil, or_false] at hc
  obtain rfl | rfl | rfl | rfl | rfl | rfl | rfl := hc <;> simp [tokenize, hflush, hnil]

@[simp] theorem tokenize_blank (cs : List Char) : tokenize [] (' ' :: cs) = tokenize [] cs := by
  simp [tokenize, flushWord]

@[simp] theorem tokenize_comma (cs : List Char) :
    tokenize [] (',' :: cs) = .comma :: tokenize [] cs := by
  simp [tokenize, flushWord]

@[simp] theorem tokenize_open (cs : List Char) :
    tokenize [] ('[' :: cs) = .open :: tokenize [] cs := by
  simp [tokenize, flushWord]

@[simp] theorem tokenize_close (cs : List Char) :
    tokenize [] (']' :: cs) = .close :: tokenize [] cs := by
  simp [tokenize, flushWord]

/-- Every character that was read as a digit can stand in a word. -/
theorem notMem_wordEnds_of_digits {base acc n : Nat} {cs : List Char}
    (h : digits base acc cs = some n) : ∀ c ∈ cs, c ∉ wordEnds := by
  induction cs generalizing acc with
  | nil => simp
  | cons c cs ih =>
    rw [digits] at h
    cases hv : hexDigit c with
    | none => simp [hv] at h
    | some v =>
      by_cases hlt : v < base
      · rw [hv] at h
        simp only [hlt, if_true] at h
        exact List.forall_mem_cons.mpr ⟨hexDigit_word hv, ih h⟩
      · simp [hv, hlt] at h

/-- A numeral is one word. -/
theorem isWord_of_number {w : List Char} {n : Nat} (h : number w = some n) : IsWord w := by
  unfold number at h
  split at h
  · cases h
  · refine ⟨by simp, List.forall_mem_cons.mpr ⟨by decide, List.forall_mem_cons.mpr ⟨by decide, ?_⟩⟩⟩
    exact notMem_wordEnds_of_digits h
  · exact ⟨by simp, notMem_wordEnds_of_digits h⟩

/-! ### Texts and lines -/

/-- A comment ends the line where its sign stands. -/
theorem tokenize_comment (acc line comment : List Char) :
    tokenize acc (line ++ ';' :: comment) = tokenize acc line := by
  induction line generalizing acc with
  | nil => simp [tokenize]
  | cons c line ih => simp only [List.cons_append, tokenize, ih]

theorem assembleText_line {line : List Char} (h : '\n' ∉ line) (rest : List Char) :
    assembleText (line ++ '\n' :: rest) =
      (assembleLine line).bind fun is => (assembleText rest).map fun js => is ++ js := by
  rw [assembleText, splitLines_line h, List.reverse_nil, List.nil_append, List.mapM_cons,
    assembleText]
  cases assembleLine line with
  | none => rfl
  | some is =>
    cases (splitLines [] rest).mapM assembleLine with
    | none => rfl
    | some js => rfl

theorem assembleText_last {line : List Char} (h : '\n' ∉ line) :
    assembleText line = assembleLine line := by
  rw [assembleText, splitLines_last h, List.reverse_nil, List.nil_append, List.mapM_cons,
    List.mapM_nil]
  cases assembleLine line with
  | none => rfl
  | some is => simp

/-- A line is assembled from its tokens. -/
theorem assembleLine_of_parseLine {cs : List Char} {ts : List Token} {l : AsmLine}
    (htokens : tokenize [] cs = ts) (hparse : parseLine ts = some l) :
    assembleLine cs = (assemble l).map ([·]) := by
  rw [assembleLine, htokens]
  cases ts with
  | nil => cases hparse
  | cons t ts => simp [hparse]

/-- A mnemonic, a blank and one operand. -/
theorem assembleLine_unary {m w : List Char} (hm : IsWord m) (hw : IsWord w) {l : AsmLine}
    (h : parseUnary m w = some l) : assembleLine (m ++ ' ' :: w) = (assemble l).map ([·]) := by
  refine assembleLine_of_parseLine (ts := [.word m, .word w]) ?_ h
  rw [tokenize_word_end hm (by decide), tokenize_blank, tokenize_word_nil hw]

/-! ### The list of CRCCHK -/

/-- The tokens of further operands of a list. -/
def tailTokens (ws : List (List Char)) : List Token := ws.flatMap fun w => [.comma, .word w]

/-- The tokens of the operands of a list. -/
def listTokens : List (List Char) → List Token
  | [] => []
  | w :: ws => .word w :: tailTokens ws

theorem tokenize_intercalate {ws : List (List Char)} (h : ∀ w ∈ ws, IsWord w) (cs : List Char) :
    tokenize [] (List.intercalate [',', ' '] ws ++ ']' :: cs) =
      listTokens ws ++ .close :: tokenize [] cs := by
  induction ws with
  | nil => exact tokenize_close cs
  | cons w ws ih =>
    obtain ⟨hw, hws⟩ := List.forall_mem_cons.mp h
    cases ws with
    | nil => simp [listTokens, tailTokens, tokenize_word_end hw (c := ']') (by decide)]
    | cons v ws =>
      have hsplit : List.intercalate [',', ' '] (w :: v :: ws) ++ ']' :: cs =
          w ++ ',' :: ' ' :: (List.intercalate [',', ' '] (v :: ws) ++ ']' :: cs) := by
        simp [List.intercalate]
      rw [hsplit, tokenize_word_end hw (by decide), tokenize_comma, tokenize_blank, ih hws]
      rfl

theorem listTail_tailTokens {ws : List (List Char)} {data : List Nat}
    (h : ws.map number = data.map some) (rest : List Token) :
    listTail (tailTokens ws ++ .close :: rest) = some (data, rest) := by
  induction ws generalizing data with
  | nil =>
    obtain rfl : data = [] := by simpa using h.symm
    rfl
  | cons w ws ih =>
    cases data with
    | nil => simp at h
    | cons n data =>
      obtain ⟨hw, hws⟩ := List.cons_eq_cons.mp h
      simp only [tailTokens, List.flatMap_cons, List.cons_append, List.nil_append, listTail, hw]
      rw [← tailTokens, ih hws]

theorem numberList_listTokens {ws : List (List Char)} {data : List Nat}
    (h : ws.map number = data.map some) (rest : List Token) :
    numberList (listTokens ws ++ .close :: rest) = some (data, rest) := by
  cases ws with
  | nil =>
    obtain rfl : data = [] := by simpa using h.symm
    rfl
  | cons w ws =>
    cases data with
    | nil => simp at h
    | cons n data =>
      obtain ⟨hw, hws⟩ := List.cons_eq_cons.mp h
      simp [listTokens, numberList, hw, listTail_tailTokens hws]

theorem isWord_of_map_number {ws : List (List Char)} {data : List Nat}
    (h : ws.map number = data.map some) : ∀ w ∈ ws, IsWord w := by
  intro w hw
  have hmem : number w ∈ data.map some := h ▸ List.mem_map_of_mem hw
  obtain ⟨n, -, hn⟩ := List.mem_map.mp hmem
  exact isWord_of_number hn.symm

theorem assembleLine_crcchk {ws : List (List Char)} {data : List Nat} {w : List Char} {c : Nat}
    (hdata : ws.map number = data.map some) (hc : number w = some c) :
    assembleLine (['C', 'R', 'C', 'C', 'H', 'K', ' ', '['] ++
      (List.intercalate [',', ' '] ws ++ ([']', ',', ' '] ++ w))) =
      (assemble (.crcchk data c)).map ([·]) := by
  have hmnemonic : IsWord ['C', 'R', 'C', 'C', 'H', 'K'] := by simp [IsWord, wordEnds]
  have hlast : tokenize [] (',' :: ' ' :: w) = [.comma, .word w] := by
    simp [tokenize_word_nil (isWord_of_number hc)]
  have hlist := tokenize_intercalate (isWord_of_map_number hdata) (',' :: ' ' :: w)
  refine assembleLine_of_parseLine (ts := .word ['C', 'R', 'C', 'C', 'H', 'K'] :: .open ::
    (listTokens ws ++ .close :: [.comma, .word w])) ?tokens ?parse
  case tokens =>
    rw [← hlast, ← hlist, ← tokenize_open, ← tokenize_blank,
      ← tokenize_word_end hmnemonic (by decide)]
    rfl
  case parse => simp [parseLine, parseCrcchk, numberList_listTokens hdata, hc]

/-- Settles O48: lines and comments are cut off as written, numerals are words that read back, and
each row is the tokens its line is parsed from. -/
theorem assemblyTextReadsAsItsLines : Obligations.AssemblyTextReadsAsItsLines := by
  refine ⟨fun line rest h => assembleText_line h rest, fun line => assembleText_last, rfl,
    fun line comment => ?comment, number_toDigits_ten, number_toDigits_sixteen, rfl, rfl, rfl, rfl,
    rfl, rfl, fun p name hname => ?lines, fun w n h => ?numbers,
    fun ws data w c => assembleLine_crcchk⟩
  case comment => rw [assembleLine, assembleLine, tokenize_comment]
  case lines =>
    simp only [List.mem_cons, Prod.mk.injEq, List.not_mem_nil, or_false] at hname
    obtain ⟨rfl, rfl⟩ | ⟨rfl, rfl⟩ := hname <;> exact ⟨rfl, rfl, rfl⟩
  case numbers =>
    have hw : IsWord w := isWord_of_number h
    refine ⟨assembleLine_unary (m := ['W', 'R', 'I', 'T', 'E']) ?_ hw ?_,
      assembleLine_unary (m := ['D', 'E', 'L', 'A', 'Y']) ?_ hw ?_,
      assembleLine_unary (m := ['A', 'D', 'D', 'R', 'W']) ?_ hw ?_,
      assembleLine_unary (m := ['A', 'D', 'D', 'R', 'R']) ?_ hw ?_,
      assembleLine_unary (m := ['D', 'E', 'L', 'A', 'Y', '_', 'M', 'S']) ?_ hw ?_⟩
    all_goals simp [IsWord, wordEnds, parseUnary, h]

end Sys2Proof.AssemblerText
